-- ==== Sys2Proof/Word.lean ====
section
/-! DEFINITION. The plainest types of the device: octets, 32-bit register values, octet strings and register numbers
(spec/00_scope.md R9, R13; spec/30_encoding.md R102). -/

namespace Sys2Proof

/-- An octet (R9). -/
abbrev Byte := BitVec 8

/-- The value of a 32-bit MMIO register or of a command word (R13, R100). -/
abbrev Word := BitVec 32

/-- An octet string, index 0 first (R9); `[]` is the empty string. -/
abbrev OctetString := List Byte

/-- A register number 0..31 of either register file (R102). -/
abbrev RegIdx := Fin 32

end Sys2Proof
end

