-- ==== Sys2Proof/Syntax.lean ====
section
/-! DEFINITION. The syntax: the seven hash algorithms, the 19 commands (spec/30_encoding.md R104), one constructor per row of
spec/opcode_table.json, and the raw fields of a command word (R101). -/

namespace Sys2Proof

/-- The seven hash algorithms, ALG = 0..6 (R103). -/
inductive HashAlg where
  | sha1
  | sha224
  | sha256
  | sha384
  | sha512
  | sha512_224
  | sha512_256
  deriving DecidableEq, Repr

/-- What the 3-bit ALG field selects: one of the seven algorithms, or `none` for the code 7, which is well-formed and fails
UNSUPPORTED_ALG when the command runs (R103, R106). -/
abbrev AlgSel := Option HashAlg

/-- The commands, operands in the order of the assembler syntax: destination, RS1, RS2, RS3 (R104, R108). -/
inductive Instr where
  /-- HASH (R179): OS digest, OS message. -/
  | hash (alg : AlgSel) (rd rs1 : RegIdx)
  /-- MGF1 (R221): OS mask, OS seed. -/
  | mgf1 (alg : AlgSel) (rd rs1 : RegIdx)
  /-- I2OSP (R232): OS string, N x. -/
  | i2osp (rd rs1 : RegIdx)
  /-- OS2IP (R233): N x, OS string. -/
  | os2ip (rd rs1 : RegIdx)
  /-- RSAEP (R241): N c, N m, N n, N e. -/
  | rsaep (rd rs1 rs2 rs3 : RegIdx)
  /-- RSAVP1 (R242): N m, N s, N n, N e. -/
  | rsavp1 (rd rs1 rs2 rs3 : RegIdx)
  /-- RSADP (R243): N m, N c, N n, N d. -/
  | rsadp (rd rs1 rs2 rs3 : RegIdx)
  /-- RSASP1 (R244): N s, N m, N n, N d. -/
  | rsasp1 (rd rs1 rs2 rs3 : RegIdx)
  /-- RSADP.CRT (R247): N m, N c, key block base. -/
  | rsadpCrt (rd rs1 rs2 : RegIdx)
  /-- RSASP1.CRT (R248): N s, N m, key block base. -/
  | rsasp1Crt (rd rs1 rs2 : RegIdx)
  /-- OAEP.ENC (R261): OS EM, OS M, OS L, OS seed source. -/
  | oaepEnc (alg : AlgSel) (rd rs1 rs2 rs3 : RegIdx)
  /-- OAEP.DEC (R263): OS M, OS EM, OS L. -/
  | oaepDec (alg : AlgSel) (rd rs1 rs2 : RegIdx)
  /-- EME15.ENC (R266): OS EM, OS M, OS PS source. -/
  | eme15Enc (rd rs1 rs3 : RegIdx)
  /-- EME15.DEC (R268): OS M, OS EM. -/
  | eme15Dec (rd rs1 : RegIdx)
  /-- PSS.ENC (R281): OS EM, OS M, OS salt source. -/
  | pssEnc (alg : AlgSel) (rd rs1 rs3 : RegIdx)
  /-- PSS.VER (R283): OS M, OS EM. -/
  | pssVer (alg : AlgSel) (rs1 rs2 : RegIdx)
  /-- EMSA15.ENC (R286): OS EM, OS M. -/
  | emsa15Enc (alg : AlgSel) (rd rs1 : RegIdx)
  /-- EMSA15.VER (R287): OS M, OS EM. -/
  | emsa15Ver (alg : AlgSel) (rs1 rs2 : RegIdx)
  /-- CTEQ (R301): OS a, OS b. -/
  | cteq (rs1 rs2 : RegIdx)
  deriving DecidableEq, Repr

/-- The seven fields of a command word as numbers (R101), before anything is checked. -/
structure CmdFields where
  op  : Nat
  alg : Nat
  rd  : Nat
  rs1 : Nat
  rs2 : Nat
  rs3 : Nat
  rsv : Nat
  deriving DecidableEq, Repr

end Sys2Proof
end

