-- ==== Sys2Proof/WellFormed.lean ====
section
/-! DEFINITION. When the fields of a command word are well-formed (spec/30_encoding.md R105), said from the columns of the opcode
map R104 and apart from the decoder. An `Instr` carries its operands in types that admit no value outside their field (a
register number is a `Fin 32`, an algorithm an `AlgSel`), so the checks that remain are those on the raw fields. -/

namespace Sys2Proof

/-- Which fields a row of the opcode map uses; a field that is not used is marked "—" there and must be 0 (R104, R105 (c)).
Every row uses RS1. -/
structure OpcodeRow where
  op      : Nat
  usesRd  : Bool
  usesRs2 : Bool
  usesRs3 : Bool
  usesAlg : Bool
  deriving DecidableEq, Repr

/-- The columns RD, RS2, RS3 and ALG of the opcode map (R104), row by row. -/
def opcodeMap : List OpcodeRow :=
  [ ⟨0x01, true,  false, false, true⟩,    -- HASH
    ⟨0x02, true,  false, false, true⟩,    -- MGF1
    ⟨0x03, true,  false, false, false⟩,   -- I2OSP
    ⟨0x04, true,  false, false, false⟩,   -- OS2IP
    ⟨0x05, true,  true,  true,  false⟩,   -- RSAEP
    ⟨0x06, true,  true,  true,  false⟩,   -- RSAVP1
    ⟨0x07, true,  true,  true,  false⟩,   -- RSADP
    ⟨0x08, true,  true,  true,  false⟩,   -- RSASP1
    ⟨0x09, true,  true,  false, false⟩,   -- RSADP.CRT
    ⟨0x0A, true,  true,  false, false⟩ ] ++
  [ ⟨0x0B, true,  true,  true,  true⟩,    -- OAEP.ENC
    ⟨0x0C, true,  true,  false, true⟩,    -- OAEP.DEC
    ⟨0x0D, true,  false, true,  false⟩,   -- EME15.ENC
    ⟨0x0E, true,  false, false, false⟩,   -- EME15.DEC
    ⟨0x0F, true,  false, true,  true⟩,    -- PSS.ENC
    ⟨0x10, false, true,  false, true⟩,    -- PSS.VER
    ⟨0x11, true,  false, false, true⟩,    -- EMSA15.ENC
    ⟨0x12, false, true,  false, true⟩,    -- EMSA15.VER
    ⟨0x13, false, true,  false, false⟩ ]  -- CTEQ

namespace CmdFields

/-- Every field fits its width (R101). -/
def fits (f : CmdFields) : Bool :=
  decide (f.op < 64) && decide (f.alg < 8) && decide (f.rd < 32) && decide (f.rs1 < 32)
    && decide (f.rs2 < 32) && decide (f.rs3 < 32) && decide (f.rsv < 8)

/-- R105 (c): every field the row marks "—" is 0. -/
def unusedZero (f : CmdFields) (r : OpcodeRow) : Bool :=
  (r.usesRd || f.rd == 0) && (r.usesRs2 || f.rs2 == 0) && (r.usesRs3 || f.rs3 == 0) && (r.usesAlg || f.alg == 0)

/-- A command word's fields are well-formed (R105): (a) the opcode has a row, (b) RSV = 0, (c) the fields the row does not use
are 0; and each is no wider than its field. -/
def wellFormed (f : CmdFields) : Bool :=
  f.fits && f.rsv == 0 &&
    match opcodeMap.find? (fun r => r.op == f.op) with
    | some r => f.unusedZero r
    | none => false

end CmdFields

end Sys2Proof
end

