-- ==== Sys2Proof/Decode.lean ====
section
/-! DEFINITION. The decoder (spec/30_encoding.md R107), total on every 32-bit word, and after it the encoder (R101, R104). -/

namespace Sys2Proof

/-- Bits hi..lo of a command word as a register number: five bits from `lo` up (R101, R102). -/
def regField (w : Word) (lo : Nat) : RegIdx :=
  (w.extractLsb' lo 5).toFin

/-- The ALG code (R103): 0..6 name an algorithm, 7 names none. -/
def algOfCode (c : BitVec 3) : AlgSel :=
  match c.toNat with
  | 0 => some .sha1
  | 1 => some .sha224
  | 2 => some .sha256
  | 3 => some .sha384
  | 4 => some .sha512
  | 5 => some .sha512_224
  | 6 => some .sha512_256
  | _ => none

/-- The code of an ALG selection (R103). -/
def codeOfAlg : AlgSel → BitVec 3
  | some .sha1       => 0
  | some .sha224     => 1
  | some .sha256     => 2
  | some .sha384     => 3
  | some .sha512     => 4
  | some .sha512_224 => 5
  | some .sha512_256 => 6
  | none             => 7

/-- The fields of a command word (R101). -/
def CmdFields.ofWord (w : Word) : CmdFields :=
  { op  := (w.extractLsb' 0 6).toNat
    alg := (w.extractLsb' 6 3).toNat
    rd  := (w.extractLsb' 9 5).toNat
    rs1 := (w.extractLsb' 14 5).toNat
    rs2 := (w.extractLsb' 19 5).toNat
    rs3 := (w.extractLsb' 24 5).toNat
    rsv := (w.extractLsb' 29 3).toNat }

/-- `some i` when the fields the row does not use are all 0, else Illegal (the loop of R107). -/
def legalIf (unusedZero : Bool) (i : Instr) : Option Instr :=
  if unusedZero then some i else none

/-- Decode (R107): `none` is Illegal, which completes with ILLEGAL_CMD. Reserved opcodes 0x00 and 0x14 to 0x3F are Illegal
(R106). -/
def decode (w : Word) : Option Instr :=
  let algBits := w.extractLsb' 6 3
  let alg := algOfCode algBits
  let rd  := regField w 9
  let rs1 := regField w 14
  let rs2 := regField w 19
  let rs3 := regField w 24
  if w.extractLsb' 29 3 ≠ 0 then none else
  match (w.extractLsb' 0 6).toNat with
  | 0x01 => legalIf (rs2 == 0 && rs3 == 0) (.hash alg rd rs1)
  | 0x02 => legalIf (rs2 == 0 && rs3 == 0) (.mgf1 alg rd rs1)
  | 0x03 => legalIf (rs2 == 0 && rs3 == 0 && algBits == 0) (.i2osp rd rs1)
  | 0x04 => legalIf (rs2 == 0 && rs3 == 0 && algBits == 0) (.os2ip rd rs1)
  | 0x05 => legalIf (algBits == 0) (.rsaep rd rs1 rs2 rs3)
  | 0x06 => legalIf (algBits == 0) (.rsavp1 rd rs1 rs2 rs3)
  | 0x07 => legalIf (algBits == 0) (.rsadp rd rs1 rs2 rs3)
  | 0x08 => legalIf (algBits == 0) (.rsasp1 rd rs1 rs2 rs3)
  | 0x09 => legalIf (rs3 == 0 && algBits == 0) (.rsadpCrt rd rs1 rs2)
  | 0x0A => legalIf (rs3 == 0 && algBits == 0) (.rsasp1Crt rd rs1 rs2)
  | 0x0B => some (.oaepEnc alg rd rs1 rs2 rs3)
  | 0x0C => legalIf (rs3 == 0) (.oaepDec alg rd rs1 rs2)
  | 0x0D => legalIf (rs2 == 0 && algBits == 0) (.eme15Enc rd rs1 rs3)
  | 0x0E => legalIf (rs2 == 0 && rs3 == 0 && algBits == 0) (.eme15Dec rd rs1)
  | 0x0F => legalIf (rs2 == 0) (.pssEnc alg rd rs1 rs3)
  | 0x10 => legalIf (rd == 0 && rs3 == 0) (.pssVer alg rs1 rs2)
  | 0x11 => legalIf (rs2 == 0 && rs3 == 0) (.emsa15Enc alg rd rs1)
  | 0x12 => legalIf (rd == 0 && rs3 == 0) (.emsa15Ver alg rs1 rs2)
  | 0x13 => legalIf (rd == 0 && rs3 == 0 && algBits == 0) (.cteq rs1 rs2)
  | _ => none

/-- The instruction the decoder reads from a table word of `nbits` bits, its first (and only) 32-bit word; bits from `nbits` up
are 0. -/
def decodeTableWord (nbits w : Nat) : Option Instr :=
  decode (BitVec.ofNat 32 (w % 2 ^ nbits))

/-- A register number as a field at bit `lo` of the word. -/
def regBits (r : RegIdx) (lo : Nat) : Word :=
  (BitVec.ofFin (w := 5) r).setWidth 32 <<< lo

/-- `OP | ALG<<6 | RD<<9 | RS1<<14 | RS2<<19 | RS3<<24`, with RSV = 0 (R101). -/
def pack (op : BitVec 6) (alg : BitVec 3) (rd rs1 rs2 rs3 : RegIdx) : Word :=
  op.setWidth 32 ||| alg.setWidth 32 <<< 6 ||| regBits rd 9 ||| regBits rs1 14 ||| regBits rs2 19 ||| regBits rs3 24

/-- The word of an instruction: its row of R104, unused fields 0. -/
def encode : Instr → Word
  | .hash alg rd rs1            => pack 0x01 (codeOfAlg alg) rd rs1 0 0
  | .mgf1 alg rd rs1            => pack 0x02 (codeOfAlg alg) rd rs1 0 0
  | .i2osp rd rs1               => pack 0x03 0 rd rs1 0 0
  | .os2ip rd rs1               => pack 0x04 0 rd rs1 0 0
  | .rsaep rd rs1 rs2 rs3       => pack 0x05 0 rd rs1 rs2 rs3
  | .rsavp1 rd rs1 rs2 rs3      => pack 0x06 0 rd rs1 rs2 rs3
  | .rsadp rd rs1 rs2 rs3       => pack 0x07 0 rd rs1 rs2 rs3
  | .rsasp1 rd rs1 rs2 rs3      => pack 0x08 0 rd rs1 rs2 rs3
  | .rsadpCrt rd rs1 rs2        => pack 0x09 0 rd rs1 rs2 0
  | .rsasp1Crt rd rs1 rs2       => pack 0x0A 0 rd rs1 rs2 0
  | .oaepEnc alg rd rs1 rs2 rs3 => pack 0x0B (codeOfAlg alg) rd rs1 rs2 rs3
  | .oaepDec alg rd rs1 rs2     => pack 0x0C (codeOfAlg alg) rd rs1 rs2 0
  | .eme15Enc rd rs1 rs3        => pack 0x0D 0 rd rs1 0 rs3
  | .eme15Dec rd rs1            => pack 0x0E 0 rd rs1 0 0
  | .pssEnc alg rd rs1 rs3      => pack 0x0F (codeOfAlg alg) rd rs1 0 rs3
  | .pssVer alg rs1 rs2         => pack 0x10 (codeOfAlg alg) 0 rs1 rs2 0
  | .emsa15Enc alg rd rs1       => pack 0x11 (codeOfAlg alg) rd rs1 0 0
  | .emsa15Ver alg rs1 rs2      => pack 0x12 (codeOfAlg alg) 0 rs1 rs2 0
  | .cteq rs1 rs2               => pack 0x13 0 0 rs1 rs2 0

end Sys2Proof
end

