-- ==== Sys2Proof/Config.lean ====
section
/-! DEFINITION. What an implementation fixes (spec/00_scope.md R8: the OPEN parameters, plain data) and the free values of the
internal random source (spec/40_common.md R139), constants without a body. -/

namespace Sys2Proof

/-- The implementation parameters of R8. Plain data, so that a claim over every configuration is a claim over every value of
this record. -/
structure Config where
  /-- OS_MAXLEN: the longest octet string a register holds; integers lie below 256^OS_MAXLEN. -/
  osMaxLen  : Nat
  /-- BASE_ADDR: the physical address of the 256-byte window. -/
  baseAddr  : Nat
  /-- LANE_ORDER: entry k is the bus byte lane that carries bits 8k+7..8k. No rule reads it (R74). DESIGN CHOICE, safe (log entry 1):
  the spec leaves its domain open; the model takes four lanes. -/
  laneOrder : Vector (Fin 4) 4
  deriving DecidableEq, Repr

namespace Config

/-- The limits R8 puts on the parameters: 64 ≤ OS_MAXLEN ≤ 2^20 and BASE_ADDR a multiple of 256. DESIGN CHOICE, safe (log entry 1):
R8, R74 and D5 put no limit on LANE_ORDER; that it names different lanes is the model's. -/
def ok (c : Config) : Bool :=
  decide (64 ≤ c.osMaxLen) && decide (c.osMaxLen ≤ 2 ^ 20) && decide (c.baseAddr % 256 = 0)
    && decide (c.laneOrder.toList.Nodup)

/-- The reference configuration: OS_MAXLEN = 1024 (R8). DESIGN CHOICE, unsafe for a claim about this one value: the spec gives
the reference configuration no BASE_ADDR and no LANE_ORDER; the model puts 0 and the identity there (log entry 1). -/
def reference : Config :=
  { osMaxLen := 1024, baseAddr := 0, laneOrder := #v[0, 1, 2, 3] }

/-- The n-th octet of the internal random source (R139 `Draw`): a free value, safe (log entry 2). -/
opaque freeOctet : Nat → Byte

/-- The n-th draw of R139 `DrawNZ`, as a number 0..254; the octet drawn is one more, 0x01..0xFF. A free value, safe (log entry 2). -/
opaque freeNonzeroIndex : Nat → Fin 255

end Config

end Sys2Proof
end

