-- ==== Sys2Proof/Machine/State.lean ====
section
/-! DEFINITION. The state of the device (spec/10_state.md R30 to R53), as plain data, the reasons a step can stop, and the state
right after reset (spec/70_reset_and_hazards.md R440). -/

namespace Sys2Proof.Machine

/-- The error codes 1..8 of R400. Code 0 (NONE) is `none` of `Option ErrCode`; the codes 9..15 are never produced and have no
constructor. -/
inductive ErrCode where
  | encoding
  | range
  | decryption
  | unsupportedAlg
  | illegalCmd
  | invalidOperand
  | capacity
  | randomSource
  deriving DecidableEq, Repr

/-- The stored bits of CTRL (R38). CLRALL has no storage. -/
structure Ctrl where
  ie     : Bool
  rngsrc : Bool
  deriving DecidableEq, Repr

/-- The bits of STATUS (R39), bit 0 first. The reserved bits 31:6 have no storage. -/
structure Status where
  busy    : Bool
  done    : Bool
  err     : Bool
  result  : Bool
  cmdovf  : Bool
  hosterr : Bool
  deriving DecidableEq, Repr

/-- The width of a bus access (R71). -/
inductive AccessSize where
  | byte
  | half
  | word
  deriving DecidableEq, Repr

/-- One host access on the bus, at a physical address (R71, R72, R88). The data of a write is the register's 32-bit value (R74). -/
inductive HostAccess where
  | read (size : AccessSize) (addr : Nat)
  | write (size : AccessSize) (addr : Nat) (data : Word)
  deriving DecidableEq, Repr

/-- Who acts next: the host with one access (R72), the engine with its step (R132), or the reset input (R440). -/
inductive Turn where
  | host (a : HostAccess)
  | engine
  | reset
  deriving DecidableEq, Repr

/-- The state. A register whose valid bit is 0 is `none`: it holds no value (R33). -/
structure State where
  /-- The implementation parameters (R8); no step changes them. -/
  cfg       : Config
  /-- OS0..OS31 with their valid bits (R31). -/
  osRegs    : Vector (Option OctetString) 32
  /-- N0..N31 with their valid bits (R32). -/
  nRegs     : Vector (Option Nat) 32
  /-- CTRL (R38). -/
  ctrl      : Ctrl
  /-- STATUS (R39). -/
  status    : Status
  /-- ERRCODE.CODE (R40); `none` is 0. -/
  errcode   : Option ErrCode
  /-- The CMD read-back (R41). -/
  cmd       : Word
  /-- PARAM0 (R42). -/
  param0    : Word
  /-- PARAM1 (R43). -/
  param1    : Word
  /-- SEL.IDX (R44). -/
  sel       : RegIdx
  /-- OSPTR (R46). -/
  osptr     : Word
  /-- CTITER (R48). -/
  ctiter    : Word
  /-- LCMD (R50). -/
  lcmd      : Word
  /-- LPARAM0 (R50). -/
  lparam0   : Word
  /-- LPARAM1 (R50). -/
  lparam1   : Word
  /-- LRNGSRC (R50). -/
  lrngsrc   : Bool
  /-- The model's own: the turns still to come, oldest first (R84, R450; log entry 3). -/
  schedule  : List Turn
  /-- The model's own: what the last host read returned (log entry 6). -/
  readData  : Option Word
  /-- The model's own: how many octets the random source has delivered (R139; log entry 2). -/
  drawCount : Nat
  deriving DecidableEq, Repr

/-- The reasons a step can stop with a fault: none. An error of a command is a completion (R415), so nothing raises a fault. -/
inductive Fault where
  deriving DecidableEq, Repr

/-- The reasons the model refuses to go on. -/
inductive Refusal where
  /-- Raised by `exec` for an instruction without a meaning yet; safe. No arm raises it now. -/
  | notModelled (mnemonic : String)
  /-- Raised by a host turn whose access R71 does not admit: not 32 bits wide, misaligned, or outside the window; safe. -/
  | accessNotAdmitted (a : HostAccess)
  deriving DecidableEq, Repr

/-- The state right after reset of a device with the parameters `c` (R440): no valid register, every control and status register
0, nothing scheduled. -/
def State.resetWith (c : Config) : State :=
  { cfg := c
    osRegs := Vector.replicate 32 none
    nRegs := Vector.replicate 32 none
    ctrl := { ie := false, rngsrc := false }
    status := { busy := false, done := false, err := false, result := false, cmdovf := false, hosterr := false }
    errcode := none
    cmd := 0
    param0 := 0
    param1 := 0
    sel := 0
    osptr := 0
    ctiter := 0
    lcmd := 0
    lparam0 := 0
    lparam1 := 0
    lrngsrc := false
    schedule := []
    readData := none
    drawCount := 0 }

/-- The state right after reset of the reference configuration (R8, R440; log entry 1). -/
def State.reset : State := State.resetWith Config.reference

end Sys2Proof.Machine
end

