-- ==== Sys2Proof/Machine/Flags.lean ====
section
/-! DEFINITION. Every computation on flags and status fields: the words software reads (spec/10_state.md R38 to R40), what issue
and completion do to STATUS (spec/40_common.md R131, R133), write-1-to-clear (R39) and the interrupt output (R53). -/

namespace Sys2Proof.Machine

/-- A flag as bit `pos` of a register. -/
def flagBit (b : Bool) (pos : Nat) : Word :=
  if b then (1 : Word) <<< pos else 0

/-- The value a read of STATUS returns (R39); bits 31:6 read 0. -/
def Status.toWord (f : Status) : Word :=
  flagBit f.busy 0 ||| flagBit f.done 1 ||| flagBit f.err 2 ||| flagBit f.result 3 ||| flagBit f.cmdovf 4
    ||| flagBit f.hosterr 5

/-- A write of `v` to STATUS: DONE, CMDOVF and HOSTERR clear where `v` has a 1; every other bit of the write is ignored (R39). -/
def Status.writeOneToClear (f : Status) (v : Word) : Status :=
  { f with
    done    := f.done && !v.getLsbD 1
    cmdovf  := f.cmdovf && !v.getLsbD 4
    hosterr := f.hosterr && !v.getLsbD 5 }

/-- STATUS after an accepted issue (R131). -/
def Status.issued (f : Status) : Status :=
  { f with busy := true, done := false, err := false, result := false }

/-- STATUS after an error-free completion with outcome `res` (R133). -/
def Status.completedOk (f : Status) (res : Bool) : Status :=
  { f with busy := false, done := true, result := res }

/-- STATUS after a completion with an error (R133): RESULT stays as issue left it. -/
def Status.completedErr (f : Status) : Status :=
  { f with busy := false, done := true, err := true }

/-- The value a read of CTRL returns (R38): CLRALL and the reserved bits read 0. -/
def Ctrl.toWord (c : Ctrl) : Word :=
  flagBit c.ie 0 ||| flagBit c.rngsrc 1

/-- The stored bits of a value written to CTRL (R38). -/
def Ctrl.ofWord (v : Word) : Ctrl :=
  { ie := v.getLsbD 0, rngsrc := v.getLsbD 1 }

/-- The number of an error code (R400). -/
def ErrCode.code : ErrCode → Word
  | .encoding       => 1
  | .range          => 2
  | .decryption     => 3
  | .unsupportedAlg => 4
  | .illegalCmd     => 5
  | .invalidOperand => 6
  | .capacity       => 7
  | .randomSource   => 8

/-- The value a read of ERRCODE returns (R40). -/
def errWord : Option ErrCode → Word
  | none   => 0
  | some c => c.code

/-- The interrupt output (R53, R413): IE ∧ DONE. -/
def State.irq (s : State) : Bool :=
  s.ctrl.ie && s.status.done

end Sys2Proof.Machine
end

