-- ==== Sys2Proof/Machine/Ops.lean ====
section
/-! DEFINITION. The shared operations: octet strings and integers (spec/00_scope.md R10 to R12, spec/44_conversion.md R230, R231),
the register files, issue (spec/40_common.md R131), completion with and without an error (R133; "trap entry" of
spec/60_exceptions.md R415), acknowledge (R416), reset (R440) and the choice of the next turn. -/

namespace Sys2Proof.Machine

/-! ### Octet strings and integers -/

/-- `0x00×n` (R10). -/
def zeros (n : Nat) : OctetString := List.replicate n 0

/-- `S[i..j)` (R10). -/
def slice (s : OctetString) (i j : Nat) : OctetString := (s.drop i).take (j - i)

/-- `A XOR B` of two strings of one length, octet by octet (R10). -/
def xorOctets (a b : OctetString) : OctetString := List.zipWith (· ^^^ ·) a b

/-- The string X with |X| = n and X[i] = floor(x / 256^(n−1−i)) mod 256 (R230). -/
def toOctets : Nat → Nat → OctetString
  | 0, _     => []
  | n + 1, x => BitVec.ofNat 8 (x / 256 ^ n) :: toOctets n x

/-- `I2OSP(x, xLen)` (R230): ENCODING when x does not fit, else the big-endian octets. -/
def i2osp (x xLen : Nat) : Except ErrCode OctetString :=
  if 256 ^ xLen ≤ x then .error .encoding else .ok (toOctets xLen x)

/-- `OS2IP(X)` (R231): Σ X[i] · 256^(|X|−1−i). -/
def os2ip : OctetString → Nat
  | []      => 0
  | b :: bs => b.toNat * 256 ^ bs.length + os2ip bs

/-- `ROTR^n(x)` on w-bit words, 0 < n < w (R12). -/
def rotr {w : Nat} (n : Nat) (x : BitVec w) : BitVec w := (x >>> n) ||| (x <<< (w - n))

/-- `ROTL^n(x) = ROTR^(w−n)(x)` (R12). -/
def rotl {w : Nat} (n : Nat) (x : BitVec w) : BitVec w := rotr (w - n) x

/-- `⌈a/b⌉` (R11). -/
def ceilDiv (a b : Nat) : Nat := (a + b - 1) / b

/-! ### The register files -/

/-- The contents of OS register `i`; `none` when its valid bit is 0 (R31, R33). -/
def State.os (s : State) (i : RegIdx) : Option OctetString := s.osRegs[i]

/-- The contents of N register `i`; `none` when its valid bit is 0 (R32, R33). -/
def State.n (s : State) (i : RegIdx) : Option Nat := s.nRegs[i]

/-- Write OS register `i` and set its valid bit (R138 `WriteOS`). -/
def State.setOS (s : State) (i : RegIdx) (v : OctetString) : State :=
  { s with osRegs := s.osRegs.set i (some v) }

/-- Write N register `i` and set its valid bit (R138 `WriteN`). -/
def State.setN (s : State) (i : RegIdx) (v : Nat) : State :=
  { s with nRegs := s.nRegs.set i (some v) }

/-- The CLRALL action (R38): no register is valid, and OSPTR = 0. -/
def State.clearAll (s : State) : State :=
  { s with osRegs := Vector.replicate 32 none, nRegs := Vector.replicate 32 none, osptr := 0 }

/-! ### What `Run` answers -/

/-- The one register a command writes back (R138). -/
inductive RegWrite where
  | os (i : RegIdx) (v : OctetString)
  | n (i : RegIdx) (v : Nat)
  deriving DecidableEq, Repr

/-- `Ok(writes, res, iter)` of R133: at most one register, RESULT, and the count for CTITER (CTEQ only). `draws` is the model's
own: how many octets the internal random source delivered. -/
structure Done where
  write  : Option RegWrite
  result : Bool
  iter   : Option Nat
  draws  : Nat
  deriving DecidableEq, Repr

/-- The outcome of `Run` (R133): `Err(code)` or `Ok(...)`. -/
abbrev RunResult := Except ErrCode Done

/-- A body's `WriteOS(RD, S)` with `draws` octets drawn: RESULT = 0, no count. -/
def doneOS (rd : RegIdx) (v : OctetString) (draws : Nat := 0) : RunResult :=
  .ok { write := some (.os rd v), result := false, iter := none, draws := draws }

/-- A body's `WriteN(RD, v)` (R138): CAPACITY when v ≥ 256^OS_MAXLEN. -/
def doneN (s : State) (rd : RegIdx) (v : Nat) : RunResult :=
  if v < 256 ^ s.cfg.osMaxLen then .ok { write := some (.n rd v), result := false, iter := none, draws := 0 }
  else .error .capacity

/-- A body's `return Ok(no writes, RESULT, iter)` (R283, R287, R301). -/
def doneResult (res : Bool) (iter : Option Nat := none) : RunResult :=
  .ok { write := none, result := res, iter := iter, draws := 0 }

/-! ### Issue, completion, acknowledge, reset -/

/-- `apply writes` (R133). -/
def State.applyWrite (s : State) : Option RegWrite → State
  | none          => s
  | some (.os i v) => s.setOS i v
  | some (.n i v)  => s.setN i v

/-- The accepted branch of issue (R131): latch the word, the parameters and RNGSRC; clear the outcome of the command before;
set BUSY. -/
def State.acceptCommand (s : State) (w : Word) : State :=
  { s with
    lcmd := w, cmd := w
    lparam0 := s.param0, lparam1 := s.param1, lrngsrc := s.ctrl.rngsrc
    status := s.status.issued
    errcode := none }

/-- TAKING AN ERROR, the device's "trap entry" (R133, R409, R415): ERRCODE <- code, ERR <- 1, BUSY <- 0, DONE <- 1. Nothing is
saved, nothing else changes, and control goes nowhere. -/
def State.takeError (s : State) (c : ErrCode) : State :=
  { s with errcode := some c, status := s.status.completedErr }

/-- The completion of `Ok(writes, res, iter)` (R133). -/
def State.completeOk (s : State) (d : Done) : State :=
  let t := s.applyWrite d.write
  { t with
    status := t.status.completedOk d.result
    ctiter := match d.iter with
      | some n => BitVec.ofNat 32 n
      | none => t.ctiter
    drawCount := t.drawCount + d.draws }

/-- Completion (R133). -/
def State.complete (s : State) : RunResult → State
  | .ok d    => s.completeOk d
  | .error c => s.takeError c

/-- A meaning's last act: the command completes with the outcome of its run (R132, R133). -/
def finish (s : State) (r : RunResult) : Host.Outcome State Fault Refusal :=
  .next (s.complete r)

/-- The engine's step for a word that does not decode (R134 step 1): ILLEGAL_CMD. -/
def illegalCommand (s : State) : Host.Outcome State Fault Refusal :=
  finish s (.error .illegalCmd)

/-- "RETURN FROM THE TRAP" (R416): the host's acknowledge, a W1C write of STATUS. It is served whether or not BUSY = 1 (R39, R83). -/
def State.writeStatus (s : State) (v : Word) : State :=
  { s with status := s.status.writeOneToClear v }

/-- The reset input (R440): every piece of the device's state takes its reset value, and a command in flight is abandoned. The
parameters and the model's own fields about the outside world (turns to come, last read, draws) are no state of the device and
stay. -/
def State.hardReset (s : State) : State :=
  { State.resetWith s.cfg with schedule := s.schedule, readData := s.readData, drawCount := s.drawCount }

/-! ### Whose turn it is -/

/-- The next turn, taken off the schedule. When the schedule is empty the turn is the engine's, so a busy engine always gets its
step in the end (R132, R450; log entry 3). -/
def State.nextTurn (s : State) : Turn × State :=
  match s.schedule with
  | []      => (.engine, s)
  | t :: ts => (t, { s with schedule := ts })

/-- The command word the engine executes (R34, R50, R87): LCMD, fixed from issue to completion. -/
def State.fetch (s : State) : Word := s.lcmd

/-- An idle device whose engine has nothing to execute: nothing advances (R34, R132). -/
def idle (s : State) : Host.Outcome State Fault Refusal := .next s

end Sys2Proof.Machine
end

