-- ==== Sys2Proof/Machine/Operands.lean ====
section
/-! DEFINITION. Every operand form: the algorithm (spec/40_common.md R134 step 2), the checked register reads (R134 step 3, R135),
the latched parameters (spec/30_encoding.md R102), the random octets of R139 and the CRT key block (spec/45_rsa.md R245). -/

namespace Sys2Proof.Machine

/-- R134 step 2: UNSUPPORTED_ALG for ALG = 7. -/
def needAlg (alg : AlgSel) : Except ErrCode HashAlg :=
  match alg with
  | some a => .ok a
  | none   => .error .unsupportedAlg

/-- `ReadOS(i)` with its check (R134 step 3, R135): INVALID_OPERAND when the valid bit is 0. -/
def readOS (s : State) (i : RegIdx) : Except ErrCode OctetString :=
  match s.os i with
  | some v => .ok v
  | none   => .error .invalidOperand

/-- `ReadN(i)` with its check (R134 step 3, R135). -/
def readN (s : State) (i : RegIdx) : Except ErrCode Nat :=
  match s.n i with
  | some v => .ok v
  | none   => .error .invalidOperand

/-- LPARAM0 and LPARAM1 as unsigned numbers (R102). -/
def State.p0 (s : State) : Nat := s.lparam0.toNat

/-- LPARAM1 as an unsigned number (R102). -/
def State.p1 (s : State) : Nat := s.lparam1.toNat

/-- `if n > OS_MAXLEN: raise Error(CAPACITY)` (R407). -/
def needCapacity (s : State) (n : Nat) : Except ErrCode Unit :=
  if s.cfg.osMaxLen < n then .error .capacity else .ok ()

/-- Raise `c` unless the body's check holds. -/
def need (holds : Bool) (c : ErrCode) : Except ErrCode Unit :=
  if holds then .ok () else .error c

/-! ### Random octets (R139) -/

/-- `Draw(n)`: the next n octets of the internal source, each free. -/
def draw (count n : Nat) : OctetString :=
  (List.range n).map fun i => Config.freeOctet (count + i)

/-- `DrawNZ(n)`: n octets, each free in 0x01..0xFF. -/
def drawNonzero (count n : Nat) : OctetString :=
  (List.range n).map fun i => BitVec.ofNat 8 ((Config.freeNonzeroIndex (count + i)).val + 1)

/-- The RS3 source (R134 step 3): with LRNGSRC = 1 the register must be valid and is read; with LRNGSRC = 0 it is ignored and the
internal source serves (`none`). -/
def readSource (s : State) (rs3 : RegIdx) : Except ErrCode (Option OctetString) :=
  if s.lrngsrc then
    match s.os rs3 with
    | some v => .ok (some v)
    | none   => .error .invalidOperand
  else .ok none

/-- `RandOctets(n)` (R139). -/
def randOctets (s : State) (src : Option OctetString) (n : Nat) : Except ErrCode OctetString :=
  match src with
  | none   => .ok (draw s.drawCount n)
  | some v => if v.length < n then .error .randomSource else .ok (v.take n)

/-- `RandNonzeroOctets(n)` (R139). -/
def randNonzeroOctets (s : State) (src : Option OctetString) (n : Nat) : Except ErrCode OctetString :=
  match src with
  | none   => .ok (drawNonzero s.drawCount n)
  | some v => if v.length < n || (v.take n).any (· == 0) then .error .randomSource else .ok (v.take n)

/-- How many octets the internal source delivers for a request of n: all of them, or none when the host supplies them. -/
def drawnFor (src : Option OctetString) (n : Nat) : Nat :=
  match src with
  | none   => n
  | some _ => 0

/-! ### The CRT key block (R245) -/

/-- One extra CRT component: prime r_i, exponent d_i, coefficient t_i. -/
structure Triplet where
  r : Nat
  d : Nat
  t : Nat
  deriving DecidableEq, Repr

/-- A CRT private key as it lies in the integer file. -/
structure CrtKey where
  p        : Nat
  q        : Nat
  dP       : Nat
  dQ       : Nat
  qInv     : Nat
  triplets : List Triplet
  deriving DecidableEq, Repr

/-- Register number `k` of the integer file; the block bound keeps k below 32 wherever it is used. -/
def regAt (k : Nat) : RegIdx := Fin.ofNat 32 k

/-- The registers N[base], N[base+1], ..., `count` of them, each valid. -/
def readBlock (s : State) (base : Nat) : Nat → Except ErrCode (List Nat)
  | 0         => .ok []
  | count + 1 => do
    let v ← readN s (regAt base)
    let vs ← readBlock s (base + 1) count
    .ok (v :: vs)

/-- The triplets (r, d, t) that follow the first five registers. -/
def tripletsOf : List Nat → List Triplet
  | r :: d :: t :: rest => ⟨r, d, t⟩ :: tripletsOf rest
  | _                   => []

/-- The rows of R245's table, in register order. -/
def keyOf : List Nat → CrtKey
  | p :: q :: dP :: dQ :: qInv :: rest => ⟨p, q, dP, dQ, qInv, tripletsOf rest⟩
  | _                                  => ⟨0, 0, 0, 0, 0, []⟩

/-- The bound of R134 step 3: b + 5 + 3t ≤ 32, in exact integers. -/
def blockFits (b : RegIdx) (t : Nat) : Bool := decide (b.val + 5 + 3 * t ≤ 32)

/-- The operands of a CRT command (R134 step 3, R245): the block bound first, then N[RS1] and every register of the block. -/
def readCrt (s : State) (rs1 b : RegIdx) (t : Nat) : Except ErrCode (Nat × CrtKey) := do
  need (blockFits b t) .invalidOperand
  let c ← readN s rs1
  let vs ← readBlock s b.val (5 + 3 * t)
  .ok (c, keyOf vs)

end Sys2Proof.Machine
end

