-- ==== Sys2Proof/Machine/Conversion.lean ====
section
/-! DEFINITION. The I2OSP/OS2IP converter's commands (spec/44_conversion.md R232, R233). -/

namespace Sys2Proof.Machine

/-- I2OSP (R232). -/
def execI2osp (rd rs1 : RegIdx) (s : State) : Host.Outcome State Fault Refusal :=
  finish s do
    let x ← readN s rs1
    needCapacity s s.p0
    let str ← i2osp x s.p0
    doneOS rd str

/-- OS2IP (R233). -/
def execOs2ip (rd rs1 : RegIdx) (s : State) : Host.Outcome State Fault Refusal :=
  finish s do
    let x ← readOS s rs1
    doneN s rd (os2ip x)

end Sys2Proof.Machine
end

