-- ==== Sys2Proof/Machine/Hash.lean ====
section
/-! DEFINITION. The SHA round engine and the HASH command (spec/41_hash.md R160 to R179). -/

namespace Sys2Proof.Machine

/-! ### Descriptors (R160) -/

/-- bs, the block size in octets. -/
def blockSize : HashAlg → Nat
  | .sha1 | .sha224 | .sha256 => 64
  | .sha384 | .sha512 | .sha512_224 | .sha512_256 => 128

/-- R, the round count. -/
def roundCount : HashAlg → Nat
  | .sha224 | .sha256 => 64
  | .sha1 | .sha384 | .sha512 | .sha512_224 | .sha512_256 => 80

/-- hLen, the digest length in octets. -/
def hLen : HashAlg → Nat
  | .sha1       => 20
  | .sha224     => 28
  | .sha256     => 32
  | .sha384     => 48
  | .sha512     => 64
  | .sha512_224 => 28
  | .sha512_256 => 32

/-! ### Padding and parsing (R161, R162) -/

/-- F, the width of the length field in octets. -/
def lengthField (bs : Nat) : Nat := if bs = 64 then 8 else 16

/-- z, the least number of zero octets that makes |M| + 1 + z + F a multiple of bs. -/
def padZeros (bs len : Nat) : Nat := (bs - (len + 1 + lengthField bs) % bs) % bs

/-- `Pad(M)`. -/
def pad (bs : Nat) (m : OctetString) : OctetString :=
  m ++ [0x80] ++ zeros (padZeros bs m.length) ++ toOctets (lengthField bs) (8 * m.length)

/-- The first `count` pieces of `size` octets each. -/
def chunks (size : Nat) : Nat → OctetString → List OctetString
  | 0, _         => []
  | count + 1, s => s.take size :: chunks size count (s.drop size)

/-- A block's sixteen words M_0..M_15 of w bits, each big-endian. -/
def blockWords (w : Nat) (block : OctetString) : List (BitVec w) :=
  (chunks (w / 8) 16 block).map fun c => BitVec.ofNat w (os2ip c)

/-- B(1)..B(n) of Pad(M), each as its sixteen words. -/
def parse (w bs : Nat) (m : OctetString) : List (List (BitVec w)) :=
  let p := pad bs m
  (chunks bs (p.length / bs) p).map (blockWords w)

/-! ### Functions shared by the datapaths -/

/-- Ch (R164, R167). -/
def ch {w : Nat} (x y z : BitVec w) : BitVec w := (x &&& y) ^^^ (~~~x &&& z)

/-- Parity (R164). -/
def parity {w : Nat} (x y z : BitVec w) : BitVec w := x ^^^ y ^^^ z

/-- Maj (R164, R167). -/
def maj {w : Nat} (x y z : BitVec w) : BitVec w := (x &&& y) ^^^ (x &&& z) ^^^ (y &&& z)

/-- The message schedule, newest word first: `count` more words, each `next` of the words before it. -/
def extendSchedule {w : Nat} (next : List (BitVec w) → BitVec w) : Nat → List (BitVec w) → List (BitVec w)
  | 0, ws         => ws
  | count + 1, ws => extendSchedule next count (next ws :: ws)

/-- W_0, W_1, ... of a block: its words, then `count` extensions. -/
def schedule {w : Nat} (next : List (BitVec w) → BitVec w) (count : Nat) (block : List (BitVec w)) : List (BitVec w) :=
  (extendSchedule next count block.reverse).reverse

/-! ### SHA-1 (R164 to R166) -/

/-- f_t (R164). -/
def sha1F (t : Nat) (x y z : BitVec 32) : BitVec 32 :=
  if t ≤ 19 then ch x y z else if t ≤ 39 then parity x y z else if t ≤ 59 then maj x y z else parity x y z

/-- K_t (R164). -/
def sha1K (t : Nat) : BitVec 32 :=
  if t ≤ 19 then 0x5a827999 else if t ≤ 39 then 0x6ed9eba1 else if t ≤ 59 then 0x8f1bbcdc else 0xca62c1d6

/-- W_t from the words before it, newest first: ROTL^1(W_{t−3} ⊕ W_{t−8} ⊕ W_{t−14} ⊕ W_{t−16}) (R165). -/
def sha1Next (ws : List (BitVec 32)) : BitVec 32 :=
  rotl 1 (ws.getD 2 0 ^^^ ws.getD 7 0 ^^^ ws.getD 13 0 ^^^ ws.getD 15 0)

/-- Round t (R166). -/
def sha1Round (t : Nat) (wt : BitVec 32) (v : Vars5 32) : Vars5 32 :=
  { a := rotl 5 v.a + sha1F t v.b v.c v.d + v.e + sha1K t + wt
    b := v.a
    c := rotl 30 v.b
    d := v.c
    e := v.d }

/-- The rounds from t on, one for each word of the schedule. -/
def sha1Rounds : Nat → List (BitVec 32) → Vars5 32 → Vars5 32
  | _, [], v      => v
  | t, wt :: ws, v => sha1Rounds (t + 1) ws (sha1Round t wt v)

/-- `Compress1` (R166). -/
def compress1 (h : Vars5 32) (block : List (BitVec 32)) : Vars5 32 :=
  let v := sha1Rounds 0 (schedule sha1Next (roundCount .sha1 - 16) block) h
  { a := h.a + v.a, b := h.b + v.b, c := h.c + v.c, d := h.d + v.d, e := h.e + v.e }

/-! ### The SHA-2 loop (R169, R172), over the four functions of its word size -/

/-- One round: T1, T2 and the shift of the working variables (R169). -/
def sha2Round {w : Nat} (bigSigma0 bigSigma1 : BitVec w → BitVec w) (kt wt : BitVec w) (v : Vars8 w) : Vars8 w :=
  let t1 := v.h + bigSigma1 v.e + ch v.e v.f v.g + kt + wt
  let t2 := bigSigma0 v.a + maj v.a v.b v.c
  { a := t1 + t2, b := v.a, c := v.b, d := v.c, e := v.d + t1, f := v.e, g := v.f, h := v.g }

/-- The rounds, one for each constant and word. -/
def sha2Rounds {w : Nat} (bigSigma0 bigSigma1 : BitVec w → BitVec w) :
    List (BitVec w) → List (BitVec w) → Vars8 w → Vars8 w
  | kt :: ks, wt :: ws, v => sha2Rounds bigSigma0 bigSigma1 ks ws (sha2Round bigSigma0 bigSigma1 kt wt v)
  | _, _, v               => v

/-- H + working variables, word by word (R169). -/
def Vars8.add {w : Nat} (h v : Vars8 w) : Vars8 w :=
  { a := h.a + v.a, b := h.b + v.b, c := h.c + v.c, d := h.d + v.d
    e := h.e + v.e, f := h.f + v.f, g := h.g + v.g, h := h.h + v.h }

/-- W_t from the words before it, newest first: σ1(W_{t−2}) + W_{t−7} + σ0(W_{t−15}) + W_{t−16} (R168, R171). -/
def sha2Next {w : Nat} (sigma0 sigma1 : BitVec w → BitVec w) (ws : List (BitVec w)) : BitVec w :=
  sigma1 (ws.getD 1 0) + ws.getD 6 0 + sigma0 (ws.getD 14 0) + ws.getD 15 0

/-! ### SHA-256 (R167 to R169) -/

/-- Σ0 (R167). -/
def bigSigma0_256 (x : BitVec 32) : BitVec 32 := rotr 2 x ^^^ rotr 13 x ^^^ rotr 22 x
/-- Σ1 (R167). -/
def bigSigma1_256 (x : BitVec 32) : BitVec 32 := rotr 6 x ^^^ rotr 11 x ^^^ rotr 25 x
/-- σ0 (R167). -/
def sigma0_256 (x : BitVec 32) : BitVec 32 := rotr 7 x ^^^ rotr 18 x ^^^ (x >>> 3)
/-- σ1 (R167). -/
def sigma1_256 (x : BitVec 32) : BitVec 32 := rotr 17 x ^^^ rotr 19 x ^^^ (x >>> 10)

/-- The SHA-256 message schedule W_0..W_63 (R168). -/
def schedule256 (block : List (BitVec 32)) : List (BitVec 32) :=
  schedule (sha2Next sigma0_256 sigma1_256) (roundCount .sha256 - 16) block

/-- `Compress256` (R169). -/
def compress256 (h : Vars8 32) (block : List (BitVec 32)) : Vars8 32 :=
  h.add (sha2Rounds bigSigma0_256 bigSigma1_256 k256 (schedule256 block) h)

/-! ### SHA-512 (R170 to R172) -/

/-- Σ0 (R170). -/
def bigSigma0_512 (x : BitVec 64) : BitVec 64 := rotr 28 x ^^^ rotr 34 x ^^^ rotr 39 x
/-- Σ1 (R170). -/
def bigSigma1_512 (x : BitVec 64) : BitVec 64 := rotr 14 x ^^^ rotr 18 x ^^^ rotr 41 x
/-- σ0 (R170). -/
def sigma0_512 (x : BitVec 64) : BitVec 64 := rotr 1 x ^^^ rotr 8 x ^^^ (x >>> 7)
/-- σ1 (R170). -/
def sigma1_512 (x : BitVec 64) : BitVec 64 := rotr 19 x ^^^ rotr 61 x ^^^ (x >>> 6)

/-- The SHA-512 message schedule W_0..W_79 (R171). -/
def schedule512 (block : List (BitVec 64)) : List (BitVec 64) :=
  schedule (sha2Next sigma0_512 sigma1_512) (roundCount .sha512 - 16) block

/-- `Compress512` (R172). -/
def compress512 (h : Vars8 64) (block : List (BitVec 64)) : Vars8 64 :=
  h.add (sha2Rounds bigSigma0_512 bigSigma1_512 k512 (schedule512 block) h)

/-! ### Hash computation (R173 to R177) -/

/-- The words of a state of five, in order. -/
def Vars5.words {w : Nat} (h : Vars5 w) : List (BitVec w) := [h.a, h.b, h.c, h.d, h.e]

/-- The words of a state of eight, in order. -/
def Vars8.words {w : Nat} (h : Vars8 w) : List (BitVec w) := [h.a, h.b, h.c, h.d, h.e, h.f, h.g, h.h]

/-- The state words written out big-endian, one after another (R177), before truncation. -/
def serialize {w : Nat} (ws : List (BitVec w)) : OctetString :=
  (ws.map fun x => toOctets (w / 8) x.toNat).flatten

/-- The state after every block (R175). -/
def iterate {w : Nat} {H : Type} (compress : H → List (BitVec w) → H) (iv : H) (blocks : List (List (BitVec w))) : H :=
  blocks.foldl compress iv

/-- The final state of the 32-bit SHA-2 datapath from `iv`, written out. -/
def sha256From (iv : Vars8 32) (m : OctetString) : OctetString :=
  serialize (iterate compress256 iv (parse 32 64 m)).words

/-- The final state of the 64-bit SHA-2 datapath from `iv`, written out. -/
def sha512From (iv : Vars8 64) (m : OctetString) : OctetString :=
  serialize (iterate compress512 iv (parse 64 128 m)).words

/-- The final state of the algorithm (R163, R173, R175) written out whole. -/
def finalState (a : HashAlg) (m : OctetString) : OctetString :=
  match a with
  | .sha1       => serialize (iterate compress1 ivSha1 (parse 32 64 m)).words
  | .sha224     => sha256From ivSha224 m
  | .sha256     => sha256From ivSha256 m
  | .sha384     => sha512From ivSha384 m
  | .sha512     => sha512From ivSha512 m
  | .sha512_224 => sha512From ivSha512_224 m
  | .sha512_256 => sha512From ivSha512_256 m

/-- `Hash_a(M)` (R176, R177): the state written out, truncated to hLen octets. -/
def hashOf (a : HashAlg) (m : OctetString) : OctetString :=
  (finalState a m).take (hLen a)

/-! ### The command -/

/-- HASH (R179). -/
def execHash (alg : AlgSel) (rd rs1 : RegIdx) (s : State) : Host.Outcome State Fault Refusal :=
  finish s do
    let a ← needAlg alg
    let m ← readOS s rs1
    doneOS rd (hashOf a m)

end Sys2Proof.Machine
end

