-- ==== Sys2Proof/Machine/Mgf1.lean ====
section
/-! DEFINITION. The MGF1 generator and its command (spec/43_mgf1.md R220, R221). -/

namespace Sys2Proof.Machine

/-- `Hash_a(seed ‖ I2OSP(counter, 4))` (R220). -/
def mgf1Block (a : HashAlg) (seed : OctetString) (counter : Nat) : OctetString :=
  hashOf a (seed ++ toOctets 4 counter)

/-- `MGF1_a(seed, maskLen)` (R220): the loop runs ⌈maskLen/hLen⌉ times, and the result is truncated to maskLen. -/
def mgf1 (a : HashAlg) (seed : OctetString) (maskLen : Nat) : OctetString :=
  ((List.range (ceilDiv maskLen (hLen a))).flatMap (mgf1Block a seed)).take maskLen

/-- MGF1 (R221). -/
def execMgf1 (alg : AlgSel) (rd rs1 : RegIdx) (s : State) : Host.Outcome State Fault Refusal :=
  finish s do
    let a ← needAlg alg
    let seed ← readOS s rs1
    needCapacity s s.p0
    doneOS rd (mgf1 a seed s.p0)

end Sys2Proof.Machine
end

