-- ==== Sys2Proof/Machine/Eme.lean ====
section
/-! DEFINITION. The OAEP and PKCS#1-v1.5 encryption encoders and decoders (spec/46_eme.md R260 to R268). -/

namespace Sys2Proof.Machine

/-! ### EME-OAEP -/

/-- The encoded message for a given seed of hLen octets: the steps of R260 after its length check. -/
def oaepEncodeWith (a : HashAlg) (m label : OctetString) (k : Nat) (seed : OctetString) : OctetString :=
  let h := hLen a
  let db := hashOf a label ++ zeros (k - m.length - 2 * h - 2) ++ [0x01] ++ m
  let maskedDB := xorOctets db (mgf1 a seed (k - h - 1))
  let maskedSeed := xorOctets seed (mgf1 a maskedDB h)
  [0x00] ++ maskedSeed ++ maskedDB

/-- The length check of R260: |M| + 2h + 2 ≤ k. -/
def oaepFits (a : HashAlg) (m : OctetString) (k : Nat) : Bool := decide (m.length + 2 * hLen a + 2 ≤ k)

/-- OAEP.ENC (R261). -/
def execOaepEnc (alg : AlgSel) (rd rs1 rs2 rs3 : RegIdx) (s : State) : Host.Outcome State Fault Refusal :=
  finish s do
    let a ← needAlg alg
    let m ← readOS s rs1
    let label ← readOS s rs2
    let src ← readSource s rs3
    needCapacity s s.p0
    need (oaepFits a m s.p0) .encoding
    let seed ← randOctets s src (hLen a)
    doneOS rd (oaepEncodeWith a m label s.p0 seed) (drawnFor src (hLen a))

/-- DB recovered from EM (R262). -/
def oaepRecoverDB (a : HashAlg) (em : OctetString) (k : Nat) : OctetString :=
  let h := hLen a
  let maskedSeed := slice em 1 (1 + h)
  let maskedDB := slice em (1 + h) k
  let seed := xorOctets maskedSeed (mgf1 a maskedDB h)
  xorOctets maskedDB (mgf1 a seed (k - h - 1))

/-- `OAEPDecode_a(EM, L, k)` (R262): every failing check gives the one DECRYPTION error (R264). -/
def oaepDecode (a : HashAlg) (em label : OctetString) (k : Nat) : Except ErrCode OctetString :=
  let h := hLen a
  if em.length ≠ k ∨ k < 2 * h + 2 then .error .decryption else
  let db := oaepRecoverDB a em k
  match (db.drop h).findIdx? (· != 0) with
  | none   => .error .decryption
  | some j =>
    let i := h + j
    if em.getD 0 0 == 0 && slice db 0 h == hashOf a label && db.getD i 0 == 0x01 then .ok (slice db (i + 1) (k - h - 1))
    else .error .decryption

/-- OAEP.DEC (R263). -/
def execOaepDec (alg : AlgSel) (rd rs1 rs2 : RegIdx) (s : State) : Host.Outcome State Fault Refusal :=
  finish s do
    let a ← needAlg alg
    let em ← readOS s rs1
    let label ← readOS s rs2
    let m ← oaepDecode a em label s.p0
    doneOS rd m

/-! ### EME-PKCS1-v1_5 -/

/-- The encoded message for a given PS (R265). -/
def eme15EncodeWith (m ps : OctetString) : OctetString := [0x00, 0x02] ++ ps ++ [0x00] ++ m

/-- |PS| = k − |M| − 3 (R265). -/
def eme15PsLen (m : OctetString) (k : Nat) : Nat := k - m.length - 3

/-- EME15.ENC (R266). -/
def execEme15Enc (rd rs1 rs3 : RegIdx) (s : State) : Host.Outcome State Fault Refusal :=
  finish s do
    let m ← readOS s rs1
    let src ← readSource s rs3
    needCapacity s s.p0
    need (decide (m.length + 11 ≤ s.p0)) .encoding
    let ps ← randNonzeroOctets s src (eme15PsLen m s.p0)
    doneOS rd (eme15EncodeWith m ps) (drawnFor src (eme15PsLen m s.p0))

/-- `EME15Decode(EM, k)` (R267): every failing check gives DECRYPTION (R264). -/
def eme15Decode (em : OctetString) (k : Nat) : Except ErrCode OctetString :=
  if em.length ≠ k ∨ k < 11 then .error .decryption else
  if em.getD 0 0 ≠ 0x00 ∨ em.getD 1 0 ≠ 0x02 then .error .decryption else
  match (em.drop 2).findIdx? (· == 0) with
  | none   => .error .decryption
  | some j =>
    let i := 2 + j
    if i - 2 < 8 then .error .decryption else .ok (slice em (i + 1) k)

/-- EME15.DEC (R268). -/
def execEme15Dec (rd rs1 : RegIdx) (s : State) : Host.Outcome State Fault Refusal :=
  finish s do
    let em ← readOS s rs1
    let m ← eme15Decode em s.p0
    doneOS rd m

end Sys2Proof.Machine
end

