-- ==== Sys2Proof/Machine/Compare.lean ====
section
/-! DEFINITION. The constant-time compare unit (spec/48_compare.md R300, R301). -/

namespace Sys2Proof.Machine

/-- What the loop sees at position i: the octet, or the sentinel where the string has ended (R300). -/
def compareAt (s : OctetString) (i : Nat) (sentinel : BitVec 9) : BitVec 9 :=
  match s[i]? with
  | some b => b.setWidth 9
  | none   => sentinel

/-- The accumulator d after the positions 0..n−1, without an early exit (R300). -/
def compareLoop (a b : OctetString) : Nat → BitVec 9
  | 0     => 0
  | n + 1 => compareLoop a b n ||| (compareAt a n 0x100 ^^^ compareAt b n 0x101)

/-- `ctEquals(a, b)` (R300): the outcome, and the iteration count max(|a|, |b|). -/
def ctEquals (a b : OctetString) : Bool × Nat :=
  let n := max a.length b.length
  (compareLoop a b n == 0 && a.length == b.length, n)

/-- CTEQ (R301). -/
def execCteq (rs1 rs2 : RegIdx) (s : State) : Host.Outcome State Fault Refusal :=
  finish s do
    let a ← readOS s rs1
    let b ← readOS s rs2
    let (eq, n) := ctEquals a b
    doneResult eq (some n)

end Sys2Proof.Machine
end

