-- ==== Sys2Proof/Machine/Emsa.lean ====
section
/-! DEFINITION. The PSS and PKCS#1-v1.5 signature encoders and verifiers (spec/47_emsa.md R280 to R287). -/

namespace Sys2Proof.Machine

/-! ### EMSA-PSS -/

/-- emLen = ⌈emBits/8⌉ (R280). -/
def pssEmLen (emBits : Nat) : Nat := ceilDiv emBits 8

/-- `0xFF >> z` with z = 8·emLen − emBits (R280). -/
def pssTopMask (emBits : Nat) : Byte := (0xFF : Byte) >>> (8 * pssEmLen emBits - emBits)

/-- Clear the leftmost z bits of the first octet (R280, R282). -/
def pssClearTop (emBits : Nat) (s : OctetString) : OctetString :=
  match s with
  | []      => []
  | b :: bs => (b &&& pssTopMask emBits) :: bs

/-- `Hash_a(00×8 ‖ mHash ‖ salt)` (R280). -/
def pssHash (a : HashAlg) (mHash salt : OctetString) : OctetString :=
  hashOf a (zeros 8 ++ mHash ++ salt)

/-- The length check of R280: emLen ≥ h + sLen + 2. -/
def pssFits (a : HashAlg) (emBits sLen : Nat) : Bool := decide (hLen a + sLen + 2 ≤ pssEmLen emBits)

/-- The encoded message for a given salt: the steps of R280 after its length check. -/
def pssEncodeWith (a : HashAlg) (m : OctetString) (emBits : Nat) (salt : OctetString) : OctetString :=
  let emLen := pssEmLen emBits
  let h := pssHash a (hashOf a m) salt
  let db := zeros (emLen - salt.length - hLen a - 2) ++ [0x01] ++ salt
  let maskedDB := pssClearTop emBits (xorOctets db (mgf1 a h (emLen - hLen a - 1)))
  maskedDB ++ h ++ [0xBC]

/-- PSS.ENC (R281). -/
def execPssEnc (alg : AlgSel) (rd rs1 rs3 : RegIdx) (s : State) : Host.Outcome State Fault Refusal :=
  finish s do
    let a ← needAlg alg
    let m ← readOS s rs1
    let src ← readSource s rs3
    needCapacity s (pssEmLen s.p0)
    need (pssFits a s.p0 s.p1) .encoding
    let salt ← randOctets s src s.p1
    doneOS rd (pssEncodeWith a m s.p0 salt) (drawnFor src s.p1)

/-- `PSSVerify_a(M, EM, emBits, sLen)` (R282). -/
def pssVerify (a : HashAlg) (m em : OctetString) (emBits sLen : Nat) : Bool :=
  let emLen := pssEmLen emBits
  let h := hLen a
  if em.length ≠ emLen then false else
  if emLen < h + sLen + 2 then false else
  if em.getD (emLen - 1) 0 ≠ 0xBC then false else
  let maskedDB := slice em 0 (emLen - h - 1)
  let hash := slice em (emLen - h - 1) (emLen - 1)
  if maskedDB.getD 0 0 &&& ~~~pssTopMask emBits ≠ 0 then false else
  let db := pssClearTop emBits (xorOctets maskedDB (mgf1 a hash (emLen - h - 1)))
  let p := emLen - h - sLen - 2
  if (slice db 0 p).any (· != 0) || db.getD p 0 != 0x01 then false else
  let salt := slice db (emLen - h - 1 - sLen) (emLen - h - 1)
  (ctEquals hash (pssHash a (hashOf a m) salt)).1

/-- PSS.VER (R283). -/
def execPssVer (alg : AlgSel) (rs1 rs2 : RegIdx) (s : State) : Host.Outcome State Fault Refusal :=
  finish s do
    let a ← needAlg alg
    let m ← readOS s rs1
    let em ← readOS s rs2
    doneResult (pssVerify a m em s.p0 s.p1)

/-! ### EMSA-PKCS1-v1_5 -/

/-- DER_a (R284). -/
def derPrefix : HashAlg → OctetString
  | .sha1       => [0x30, 0x21, 0x30, 0x09, 0x06, 0x05, 0x2b, 0x0e, 0x03, 0x02, 0x1a, 0x05, 0x00, 0x04, 0x14]
  | .sha224     => [0x30, 0x2d, 0x30, 0x0d, 0x06, 0x09, 0x60, 0x86, 0x48, 0x01, 0x65, 0x03, 0x04, 0x02, 0x04, 0x05, 0x00, 0x04, 0x1c]
  | .sha256     => [0x30, 0x31, 0x30, 0x0d, 0x06, 0x09, 0x60, 0x86, 0x48, 0x01, 0x65, 0x03, 0x04, 0x02, 0x01, 0x05, 0x00, 0x04, 0x20]
  | .sha384     => [0x30, 0x41, 0x30, 0x0d, 0x06, 0x09, 0x60, 0x86, 0x48, 0x01, 0x65, 0x03, 0x04, 0x02, 0x02, 0x05, 0x00, 0x04, 0x30]
  | .sha512     => [0x30, 0x51, 0x30, 0x0d, 0x06, 0x09, 0x60, 0x86, 0x48, 0x01, 0x65, 0x03, 0x04, 0x02, 0x03, 0x05, 0x00, 0x04, 0x40]
  | .sha512_224 => [0x30, 0x2d, 0x30, 0x0d, 0x06, 0x09, 0x60, 0x86, 0x48, 0x01, 0x65, 0x03, 0x04, 0x02, 0x05, 0x05, 0x00, 0x04, 0x1c]
  | .sha512_256 => [0x30, 0x31, 0x30, 0x0d, 0x06, 0x09, 0x60, 0x86, 0x48, 0x01, 0x65, 0x03, 0x04, 0x02, 0x06, 0x05, 0x00, 0x04, 0x20]

/-- tLen = |DER_a| + hLen (R284). -/
def tLen (a : HashAlg) : Nat := (derPrefix a).length + hLen a

/-- The encoded message (R285) after its length check. -/
def emsa15EncodeRaw (a : HashAlg) (m : OctetString) (emLen : Nat) : OctetString :=
  [0x00, 0x01] ++ List.replicate (emLen - tLen a - 3) 0xFF ++ [0x00] ++ (derPrefix a ++ hashOf a m)

/-- The length check of R285: emLen ≥ tLen + 11. -/
def emsa15Fits (a : HashAlg) (emLen : Nat) : Bool := decide (tLen a + 11 ≤ emLen)

/-- EMSA15.ENC (R286). -/
def execEmsa15Enc (alg : AlgSel) (rd rs1 : RegIdx) (s : State) : Host.Outcome State Fault Refusal :=
  finish s do
    let a ← needAlg alg
    let m ← readOS s rs1
    needCapacity s s.p0
    need (emsa15Fits a s.p0) .encoding
    doneOS rd (emsa15EncodeRaw a m s.p0)

/-- The outcome of EMSA15.VER's body (R287). -/
def emsa15Verify (s : State) (a : HashAlg) (m em : OctetString) : Bool :=
  if s.cfg.osMaxLen < s.p0 || !emsa15Fits a s.p0 then false
  else (ctEquals (emsa15EncodeRaw a m s.p0) em).1

/-- EMSA15.VER (R287). -/
def execEmsa15Ver (alg : AlgSel) (rs1 rs2 : RegIdx) (s : State) : Host.Outcome State Fault Refusal :=
  finish s do
    let a ← needAlg alg
    let m ← readOS s rs1
    let em ← readOS s rs2
    doneResult (emsa15Verify s a m em)

end Sys2Proof.Machine
end

