-- ==== Sys2Proof/Machine/Rsa.lean ====
section
/-! DEFINITION. The RSA modexp core (spec/45_rsa.md R240 to R248). -/

namespace Sys2Proof.Machine

/-- Square and multiply: `acc · b^e mod n`, one bit of e a round. `fuel` is a bound on e's bit length. -/
def modExpLoop : Nat → Nat → Nat → Nat → Nat → Nat
  | 0, _, _, n, acc        => acc % n
  | fuel + 1, b, e, n, acc =>
    modExpLoop fuel (b * b % n) (e / 2) n (if e % 2 = 1 then acc * b % n else acc)

/-- `ModExp(b, e, n)` (R240): b^e mod n, with 0^0 = 1. The law `modExp_eq_pow_mod` (Laws/Rsa.lean) says that it is `b ^ e % n`;
it is computed by squaring so that it can be run on keys of real size. -/
def modExp (b e n : Nat) : Nat := modExpLoop (e.log2 + 1) (b % n) e n 1

/-- The exponent-form primitive (R241 to R244): RANGE unless the input is below n, then the input to the exponent, mod n. -/
def expPrimitive (s : State) (rd rs1 rs2 rs3 : RegIdx) : RunResult := do
  let x ← readN s rs1
  let n ← readN s rs2
  let e ← readN s rs3
  need (decide (x < n)) .range
  doneN s rd (modExp x e n)

/-- RSAEP (R241). -/
def execRsaep (rd rs1 rs2 rs3 : RegIdx) (s : State) : Host.Outcome State Fault Refusal :=
  finish s (expPrimitive s rd rs1 rs2 rs3)

/-- RSAVP1 (R242). -/
def execRsavp1 (rd rs1 rs2 rs3 : RegIdx) (s : State) : Host.Outcome State Fault Refusal :=
  finish s (expPrimitive s rd rs1 rs2 rs3)

/-- RSADP (R243). -/
def execRsadp (rd rs1 rs2 rs3 : RegIdx) (s : State) : Host.Outcome State Fault Refusal :=
  finish s (expPrimitive s rd rs1 rs2 rs3)

/-- RSASP1 (R244). -/
def execRsasp1 (rd rs1 rs2 rs3 : RegIdx) (s : State) : Host.Outcome State Fault Refusal :=
  finish s (expPrimitive s rd rs1 rs2 rs3)

/-! ### The CRT form (R246) -/

/-- n* = r_1 · r_2 · … · r_u. -/
def CrtKey.modulus (k : CrtKey) : Nat := k.p * k.q * (k.triplets.map (·.r)).prod

/-- `((x − y) · k) mod r`, non-negative (R11). -/
def subMulMod (x y k r : Nat) : Nat := ((((x : Int) - y) * k) % (r : Int)).toNat

/-- Garner's loop for i = 3..u: `bigR` is R before its product with `rPrev` = r_(i−1), `m` the combination so far. -/
def garner (c : Nat) : Nat → Nat → Nat → List Triplet → Nat
  | _, _, m, []               => m
  | bigR, rPrev, m, tr :: trs =>
    let bigR' := bigR * rPrev
    garner c bigR' tr.r (m + bigR' * subMulMod (modExp c tr.d tr.r) m tr.t tr.r) trs

/-- The two-prime combination m_2 + r_2 · h. -/
def crtTwo (c : Nat) (k : CrtKey) : Nat :=
  let m2 := modExp c k.dQ k.q
  m2 + k.q * subMulMod (modExp c k.dP k.p) m2 k.qInv k.p

/-- `CRT(c, block)` after its range check (R246). -/
def crtValue (c : Nat) (k : CrtKey) : Nat := garner c k.p k.q (crtTwo c k) k.triplets

/-- The CRT primitive (R247, R248): operands, RANGE unless c < n*, the value, CAPACITY if it is too large. -/
def crtPrimitive (s : State) (rd rs1 rs2 : RegIdx) : RunResult := do
  let (c, k) ← readCrt s rs1 rs2 s.p0
  need (decide (c < k.modulus)) .range
  doneN s rd (crtValue c k)

/-- RSADP.CRT (R247). -/
def execRsadpCrt (rd rs1 rs2 : RegIdx) (s : State) : Host.Outcome State Fault Refusal :=
  finish s (crtPrimitive s rd rs1 rs2)

/-- RSASP1.CRT (R248). -/
def execRsasp1Crt (rd rs1 rs2 : RegIdx) (s : State) : Host.Outcome State Fault Refusal :=
  finish s (crtPrimitive s rd rs1 rs2)

end Sys2Proof.Machine
end

