-- ==== Sys2Proof/Machine/Dispatch.lean ====
section
/-! DEFINITION. The engine's execute step for a decoded command (spec/40_common.md R132, R134), one arm per command. -/

namespace Sys2Proof.Machine

def exec (i : Instr) (s : State) : Host.Outcome State Fault Refusal :=
  match i with
  | .hash alg rd rs1 => Sys2Proof.Machine.execHash alg rd rs1 s
  | .mgf1 alg rd rs1 => Sys2Proof.Machine.execMgf1 alg rd rs1 s
  | .i2osp rd rs1 => Sys2Proof.Machine.execI2osp rd rs1 s
  | .os2ip rd rs1 => Sys2Proof.Machine.execOs2ip rd rs1 s
  | .rsaep rd rs1 rs2 rs3 => Sys2Proof.Machine.execRsaep rd rs1 rs2 rs3 s
  | .rsavp1 rd rs1 rs2 rs3 => Sys2Proof.Machine.execRsavp1 rd rs1 rs2 rs3 s
  | .rsadp rd rs1 rs2 rs3 => Sys2Proof.Machine.execRsadp rd rs1 rs2 rs3 s
  | .rsasp1 rd rs1 rs2 rs3 => Sys2Proof.Machine.execRsasp1 rd rs1 rs2 rs3 s
  | .rsadpCrt rd rs1 rs2 => Sys2Proof.Machine.execRsadpCrt rd rs1 rs2 s
  | .rsasp1Crt rd rs1 rs2 => Sys2Proof.Machine.execRsasp1Crt rd rs1 rs2 s
  | .oaepEnc alg rd rs1 rs2 rs3 => Sys2Proof.Machine.execOaepEnc alg rd rs1 rs2 rs3 s
  | .oaepDec alg rd rs1 rs2 => Sys2Proof.Machine.execOaepDec alg rd rs1 rs2 s
  | .eme15Enc rd rs1 rs3 => Sys2Proof.Machine.execEme15Enc rd rs1 rs3 s
  | .eme15Dec rd rs1 => Sys2Proof.Machine.execEme15Dec rd rs1 s
  | .pssEnc alg rd rs1 rs3 => Sys2Proof.Machine.execPssEnc alg rd rs1 rs3 s
  | .pssVer alg rs1 rs2 => Sys2Proof.Machine.execPssVer alg rs1 rs2 s
  | .emsa15Enc alg rd rs1 => Sys2Proof.Machine.execEmsa15Enc alg rd rs1 s
  | .emsa15Ver alg rs1 rs2 => Sys2Proof.Machine.execEmsa15Ver alg rs1 rs2 s
  | .cteq rs1 rs2 => Sys2Proof.Machine.execCteq rs1 rs2 s

end Sys2Proof.Machine
end

