-- ==== Sys2Proof/Machine/HostPort.lean ====
section
/-! DEFINITION. The host's accesses: the register map (spec/10_state.md R35 to R49), the buffer port (spec/20_memory.md R76 to R81),
writes while a command runs (R83, R446) and the accesses that are admitted (R71). -/

namespace Sys2Proof.Machine

/-- The registers of the window (R35). -/
inductive MmioReg where
  | id
  | caps
  | ctrl
  | status
  | errcode
  | cmd
  | param0
  | param1
  | sel
  | oslen
  | osptr
  | osdata
  | ctiter
  /-- An offset 0x34..0xFC (R49). -/
  | reserved
  deriving DecidableEq, Repr

/-- The register at an admitted offset (R35). -/
def mmioRegAt (off : Nat) : MmioReg :=
  match off with
  | 0x00 => .id
  | 0x04 => .caps
  | 0x08 => .ctrl
  | 0x0C => .status
  | 0x10 => .errcode
  | 0x14 => .cmd
  | 0x18 => .param0
  | 0x1C => .param1
  | 0x20 => .sel
  | 0x24 => .oslen
  | 0x28 => .osptr
  | 0x2C => .osdata
  | 0x30 => .ctiter
  | _    => .reserved

/-- The window offset of an admitted access (R71): 32 bits wide, in the window, at a multiple of 4. -/
def admittedOffset (c : Config) (size : AccessSize) (addr : Nat) : Option Nat :=
  if size = .word ∧ c.baseAddr ≤ addr ∧ addr < c.baseAddr + 256 ∧ (addr - c.baseAddr) % 4 = 0 then some (addr - c.baseAddr)
  else none

/-- The constant of ID, ASCII "CRE1" (R36). -/
def idValue : Word := 0x43524531

/-- HOSTERR <- 1 (R77, R80, R81, R83). -/
def State.hostError (s : State) : State :=
  { s with status := { s.status with hosterr := true } }

/-- CMDOVF <- 1 (R131). -/
def State.commandOverflow (s : State) : State :=
  { s with status := { s.status with cmdovf := true } }

/-- The value of OSLEN (R45, R78): bit 31 the valid bit, bits 30:0 the length or 0. -/
def State.oslenWord (s : State) : Word :=
  match s.os s.sel with
  | some v => (1 : Word) <<< 31 ||| BitVec.ofNat 32 v.length
  | none   => 0

/-- The octet the buffer port addresses, when the register is valid and OSPTR lies inside it (R80, R81). -/
def State.portOctet (s : State) : Option Byte :=
  match s.os s.sel with
  | some v => v[s.osptr.toNat]?
  | none   => none

/-! ### Writes -/

/-- A CTRL write with BUSY = 0 (R38). -/
def State.writeCtrl (s : State) (v : Word) : State :=
  let t := { s with ctrl := Ctrl.ofWord v }
  if v.getLsbD 2 then t.clearAll else t

/-- A SEL write (R76). -/
def State.writeSel (s : State) (v : Word) : State :=
  { s with sel := (v.extractLsb' 0 5).toFin, osptr := 0 }

/-- An OSLEN write (R77). -/
def State.writeOslen (s : State) (v : Word) : State :=
  let len := (v.extractLsb' 0 31).toNat
  if s.cfg.osMaxLen < len then s.hostError
  else { s.setOS s.sel (zeros len) with osptr := 0 }

/-- An OSDATA write (R80): the octet at OSPTR is replaced, the length never changes. -/
def State.writeOsdata (s : State) (v : Word) : State :=
  match s.os s.sel with
  | some str =>
    if s.osptr.toNat < str.length then
      { s.setOS s.sel (str.set s.osptr.toNat (v.extractLsb' 0 8)) with osptr := s.osptr + 1 }
    else s.hostError
  | none => s.hostError

/-- Issue (R41, R131): a CMD write. -/
def State.issue (s : State) (w : Word) : State :=
  if s.status.busy then s.commandOverflow else s.acceptCommand w

/-- A write that is dropped, with HOSTERR, while BUSY = 1 (R83, R446). -/
def State.unlessBusy (s : State) (t : State) : State :=
  if s.status.busy then s.hostError else t

/-- A write to ID, CAPS, ERRCODE, CTITER or a reserved offset, which stores nothing: ignored without a flag when BUSY = 0 (R49, R82),
and a dropped write like any other, with HOSTERR, while BUSY = 1 (R446 and decision D10, which except only CMD and STATUS).
DEDUCED, unsafe (log entry 7): R49 and R82 say "without a flag" without naming BUSY. -/
def State.ignoredWrite (s : State) : State := s.unlessBusy s

/-- A host write of `v` to a register (R35 to R49, R76 to R83, R446). -/
def State.writeReg (s : State) (r : MmioReg) (v : Word) : State :=
  match r with
  | .id       => s.ignoredWrite
  | .caps     => s.ignoredWrite
  | .ctrl     => s.unlessBusy (s.writeCtrl v)
  | .status   => s.writeStatus v
  | .errcode  => s.ignoredWrite
  | .cmd      => s.issue v
  | .param0   => s.unlessBusy { s with param0 := v }
  | .param1   => s.unlessBusy { s with param1 := v }
  | .sel      => s.unlessBusy (s.writeSel v)
  | .oslen    => s.unlessBusy (s.writeOslen v)
  | .osptr    => s.unlessBusy { s with osptr := v }
  | .osdata   => s.unlessBusy (s.writeOsdata v)
  | .ctiter   => s.ignoredWrite
  | .reserved => s.ignoredWrite

/-! ### Reads -/

/-- An OSDATA read (R81): the octet and OSPTR + 1, or 0 and HOSTERR. -/
def State.readOsdata (s : State) : Word × State :=
  if s.status.busy then (0, s.hostError) else
  match s.portOctet with
  | some d => (d.setWidth 32, { s with osptr := s.osptr + 1 })
  | none   => (0, s.hostError)

/-- A host read of a register: the value returned and the state after it (R35 to R49, R78 to R82). -/
def State.readReg (s : State) (r : MmioReg) : Word × State :=
  match r with
  | .id       => (idValue, s)
  | .caps     => (BitVec.ofNat 32 s.cfg.osMaxLen, s)
  | .ctrl     => (s.ctrl.toWord, s)
  | .status   => (s.status.toWord, s)
  | .errcode  => (errWord s.errcode, s)
  | .cmd      => (s.cmd, s)
  | .param0   => (s.param0, s)
  | .param1   => (s.param1, s)
  | .sel      => (BitVec.ofNat 32 s.sel.val, s)
  | .oslen    => (s.oslenWord, s)
  | .osptr    => (s.osptr, s)
  | .osdata   => s.readOsdata
  | .ctiter   => (s.ctiter, s)
  | .reserved => (0, s)

/-! ### One access -/

/-- The address and the width of an access. -/
def HostAccess.offset (c : Config) : HostAccess → Option Nat
  | .read size addr    => admittedOffset c size addr
  | .write size addr _ => admittedOffset c size addr

/-- An access at an admitted offset, atomic with all its side effects (R72). A read leaves its value on the bus. -/
def State.access (s : State) (a : HostAccess) (off : Nat) : State :=
  match a with
  | .read _ _ =>
    let (v, t) := s.readReg (mmioRegAt off)
    { t with readData := some v }
  | .write _ _ v => s.writeReg (mmioRegAt off) v

/-- The host's turn: an access R71 admits is performed; any other is refused. -/
def hostTurn (s : State) (a : HostAccess) : Host.Outcome State Fault Refusal :=
  match a.offset s.cfg with
  | some off => .next (s.access a off)
  | none     => .refused (.accessNotAdmitted a)

/-- The reset input's turn (R440). -/
def resetTurn (s : State) : Host.Outcome State Fault Refusal :=
  .next s.hardReset

end Sys2Proof.Machine
end

