-- ==== Sys2Proof/Machine/Step.lean ====
section
/-! DEFINITION. One step of the device: the next turn's agent acts (spec/40_common.md R130, R132; spec/20_memory.md R84). -/

namespace Sys2Proof.Machine

/-- The engine's execute step (R132): `Run` on the latched command and its completion. -/
def engineStep (s : State) : Host.Outcome State Fault Refusal :=
  match Sys2Proof.decode s.fetch with
  | some i => exec i s
  | none   => illegalCommand s

/-- The engine's turn: its step is enabled exactly when BUSY = 1 (R132). -/
def engineTurn (s : State) : Host.Outcome State Fault Refusal :=
  if s.status.busy then engineStep s else idle s

/-- One step: the turn at the head of the schedule, taken off it. -/
def step (s : State) : Host.Outcome State Fault Refusal :=
  match s.nextTurn with
  | (.engine, t) => engineTurn t
  | (.host a, t) => hostTurn t a
  | (.reset, t)  => resetTurn t

/-- `s` with the command word `w` issued (R131) and the engine's turn next, so that the next step executes exactly that command.
It stands for the host's CMD write on an idle device; `nbits` is the table's width, bits from there up are 0 (log entry 3). -/
def State.withFetchWord (s : State) (nbits w : Nat) : State :=
  { s.acceptCommand (BitVec.ofNat 32 (w % 2 ^ nbits)) with schedule := .engine :: s.schedule }

end Sys2Proof.Machine
end

