-- ==== Sys2Proof/Machine/Assembler.lean ====
section
/-! DEFINITION. The notation of host programs: the assembler text of a command (spec/30_encoding.md R108) and the host
pseudo-instructions as the turns they expand to (R109). Nothing here changes the device; `step` does not read this file. -/

namespace Sys2Proof.Machine

/-! ### Assembler text (R108) -/

/-- The suffix of an algorithm (R103). -/
def algSuffix : HashAlg → String
  | .sha1       => ".sha1"
  | .sha224     => ".sha224"
  | .sha256     => ".sha256"
  | .sha384     => ".sha384"
  | .sha512     => ".sha512"
  | .sha512_224 => ".sha512_224"
  | .sha512_256 => ".sha512_256"

/-- An octet-string register. -/
def osName (r : RegIdx) : String := "os" ++ toString r.val

/-- An integer register. -/
def nName (r : RegIdx) : String := "n" ++ toString r.val

/-- A CRT key base. -/
def keyName (r : RegIdx) : String := "key(" ++ nName r ++ ")"

/-- An RS3 random source, written only when it is nonzero. -/
def sourceName (r : RegIdx) : List String := if r = 0 then [] else [osName r]

/-- A mnemonic and its operands. -/
def asmLine (mnemonic : String) (operands : List String) : String :=
  mnemonic ++ " " ++ String.intercalate ", " operands

/-- A line whose mnemonic carries the algorithm; ALG = 7 has no mnemonic (R103). -/
def asmAlgLine (alg : AlgSel) (mnemonic : String) (operands : List String) : Option String :=
  alg.map fun a => asmLine (mnemonic ++ algSuffix a) operands

/-- The assembler text of a command. -/
def asmText : Instr → Option String
  | .hash alg rd rs1            => asmAlgLine alg "hash" [osName rd, osName rs1]
  | .mgf1 alg rd rs1            => asmAlgLine alg "mgf1" [osName rd, osName rs1]
  | .i2osp rd rs1               => some (asmLine "i2osp" [osName rd, nName rs1])
  | .os2ip rd rs1               => some (asmLine "os2ip" [nName rd, osName rs1])
  | .rsaep rd rs1 rs2 rs3       => some (asmLine "rsaep" [nName rd, nName rs1, nName rs2, nName rs3])
  | .rsavp1 rd rs1 rs2 rs3      => some (asmLine "rsavp1" [nName rd, nName rs1, nName rs2, nName rs3])
  | .rsadp rd rs1 rs2 rs3       => some (asmLine "rsadp" [nName rd, nName rs1, nName rs2, nName rs3])
  | .rsasp1 rd rs1 rs2 rs3      => some (asmLine "rsasp1" [nName rd, nName rs1, nName rs2, nName rs3])
  | .rsadpCrt rd rs1 rs2        => some (asmLine "rsadp.crt" [nName rd, nName rs1, keyName rs2])
  | .rsasp1Crt rd rs1 rs2       => some (asmLine "rsasp1.crt" [nName rd, nName rs1, keyName rs2])
  | .oaepEnc alg rd rs1 rs2 rs3 => asmAlgLine alg "oaep.enc" ([osName rd, osName rs1, osName rs2] ++ sourceName rs3)
  | .oaepDec alg rd rs1 rs2     => asmAlgLine alg "oaep.dec" [osName rd, osName rs1, osName rs2]
  | .eme15Enc rd rs1 rs3        => some (asmLine "eme15.enc" ([osName rd, osName rs1] ++ sourceName rs3))
  | .eme15Dec rd rs1            => some (asmLine "eme15.dec" [osName rd, osName rs1])
  | .pssEnc alg rd rs1 rs3      => asmAlgLine alg "pss.enc" ([osName rd, osName rs1] ++ sourceName rs3)
  | .pssVer alg rs1 rs2         => asmAlgLine alg "pss.ver" [osName rs1, osName rs2]
  | .emsa15Enc alg rd rs1       => asmAlgLine alg "emsa15.enc" [osName rd, osName rs1]
  | .emsa15Ver alg rs1 rs2      => asmAlgLine alg "emsa15.ver" [osName rs1, osName rs2]
  | .cteq rs1 rs2               => some (asmLine "cteq" [osName rs1, osName rs2])

/-! ### Host pseudo-instructions (R109) -/

/-- `W(off, v)`: a 32-bit write in the window. -/
def mmioWrite (c : Config) (off : Nat) (v : Word) : Turn := .host (.write .word (c.baseAddr + off) v)

/-- `R(off)`: a 32-bit read in the window. -/
def mmioRead (c : Config) (off : Nat) : Turn := .host (.read .word (c.baseAddr + off))

/-- `param p0[, p1]`. -/
def hostParam (c : Config) (p0 : Word) (p1 : Option Word) : List Turn :=
  mmioWrite c 0x18 p0 :: match p1 with
    | some v => [mmioWrite c 0x1C v]
    | none   => []

/-- `ctrl ie, rngsrc`. -/
def hostCtrl (c : Config) (ie rngsrc : Bool) : List Turn :=
  [mmioWrite c 0x08 ((if ie then 1 else 0) ||| (if rngsrc then 2 else 0))]

/-- `clrall`, with the value CTRL reads as. -/
def hostClrall (c : Config) (ctrl : Word) : List Turn := [mmioWrite c 0x08 ((ctrl &&& 3) ||| 4)]

/-- `load osI, "s"`. -/
def hostLoad (c : Config) (i : RegIdx) (s : OctetString) : List Turn :=
  mmioWrite c 0x20 (BitVec.ofNat 32 i.val) :: mmioWrite c 0x24 (BitVec.ofNat 32 s.length)
    :: s.map fun b => mmioWrite c 0x2C (b.setWidth 32)

/-- `store osI -> buf` of a register of `len` octets. -/
def hostStore (c : Config) (i : RegIdx) (len : Nat) : List Turn :=
  mmioWrite c 0x20 (BitVec.ofNat 32 i.val) :: mmioRead c 0x24 :: List.replicate len (mmioRead c 0x2C)

/-- `poke osI[j], b`. -/
def hostPoke (c : Config) (i : RegIdx) (j : Nat) (b : Byte) : List Turn :=
  [mmioWrite c 0x20 (BitVec.ofNat 32 i.val), mmioWrite c 0x28 (BitVec.ofNat 32 j), mmioWrite c 0x2C (b.setWidth 32)]

/-- `wait`: `polls` reads of STATUS that still see BUSY = 1, the engine's step, and the read that sees BUSY = 0. -/
def hostWait (c : Config) (polls : Nat) : List Turn :=
  List.replicate polls (mmioRead c 0x0C) ++ [.engine, mmioRead c 0x0C]

/-- `ack`. -/
def hostAck (c : Config) : List Turn := [mmioWrite c 0x0C 2]

/-- `issue <word>`. -/
def hostIssue (c : Config) (w : Word) : List Turn := [mmioWrite c 0x14 w]

/-- `run <command>`: issue, then wait. -/
def hostRun (c : Config) (i : Instr) (polls : Nat) : List Turn :=
  hostIssue c (encode i) ++ hostWait c polls

end Sys2Proof.Machine
end

