-- ==== Sys2Proof/Safety.lean ====
section
/-! DEFINITION. The words claims use: the invariant of the device, the next states the rules give, what a command reads and writes
(spec/30_encoding.md R104), the errors it may raise (spec/60_exceptions.md R400), the digest (spec/41_hash.md R162 to R177) and a
consistent CRT key (spec/45_rsa.md R249). -/

namespace Sys2Proof.Machine

/-! ### The invariant -/

/-- Every valid OS register holds at most OS_MAXLEN octets (R31). -/
abbrev State.osFit (s : State) : Prop :=
  ∀ i : RegIdx, (s.os i).all (fun v => decide (v.length ≤ s.cfg.osMaxLen)) = true

/-- Every valid N register holds an integer below 256^OS_MAXLEN (R32). -/
abbrev State.nFit (s : State) : Prop :=
  ∀ i : RegIdx, (s.n i).all (fun v => decide (v < 256 ^ s.cfg.osMaxLen)) = true

/-- While a command runs no outcome is shown (R131); an error is shown in ERR and ERRCODE together (R133, R409); a true RESULT is
no error (R411); CMD reads back the latched word (R131). -/
abbrev State.outcomeCoherent (s : State) : Prop :=
  (s.status.busy = true → s.status.done = false ∧ s.status.err = false ∧ s.status.result = false) ∧
  s.status.err = s.errcode.isSome ∧
  (s.status.result = true → s.status.err = false) ∧
  s.cmd = s.lcmd

/-- The invariant: parameters within R8, registers within their capacity, outcome flags coherent. -/
abbrev State.Inv (s : State) : Prop :=
  s.cfg.ok = true ∧ s.osFit ∧ s.nFit ∧ s.outcomeCoherent

/-! ### The next states the rules give -/

/-- `s` after a completion with error `c` (R133, R409): ERRCODE, ERR, DONE set, BUSY clear, nothing else. -/
def errored (s : State) (c : ErrCode) : State :=
  { s with errcode := some c, status := { s.status with busy := false, done := true, err := true } }

/-- `s` after an error-free completion that writes no register and sets RESULT to `res` (R133). -/
def answered (s : State) (res : Bool) : State :=
  { s with status := { s.status with busy := false, done := true, result := res } }

/-- `s` after an error-free completion that writes `v` to OS register `rd` (R133, R138). -/
def wroteOS (s : State) (rd : RegIdx) (v : OctetString) : State :=
  { answered s false with osRegs := s.osRegs.set rd (some v) }

/-- `s` after an error-free completion that writes `v` to N register `rd` (R133, R138). -/
def wroteN (s : State) (rd : RegIdx) (v : Nat) : State :=
  { answered s false with nRegs := s.nRegs.set rd (some v) }

/-- `s` after the internal random source delivered `n` octets (R139). -/
def drew (s : State) (n : Nat) : State :=
  { s with drawCount := s.drawCount + n }

/-- `f` applied to the next state; a stop stays what it is. -/
def mapNext (f : State → State) : Host.Outcome State Fault Refusal → Host.Outcome State Fault Refusal
  | .next t    => .next (f t)
  | .fault r   => .fault r
  | .refused r => .refused r

/-- `s` with the turn at the head of the schedule taken off. -/
def afterTurn (s : State) (rest : List Turn) : State :=
  { s with schedule := rest }

/-- It is the engine's turn: at the head of the schedule, or because nothing is scheduled. -/
def engineNext (s : State) : Prop :=
  s.schedule = [] ∨ s.schedule.head? = some .engine

/-! ### What a command reads and writes (R104) -/

/-- The algorithm selection of a command that uses ALG. -/
def algOf : Instr → Option AlgSel
  | .hash a _ _ | .mgf1 a _ _ | .oaepEnc a _ _ _ _ | .oaepDec a _ _ _ | .pssEnc a _ _ _ | .pssVer a _ _
  | .emsa15Enc a _ _ | .emsa15Ver a _ _ => some a
  | .i2osp _ _ | .os2ip _ _ | .rsaep _ _ _ _ | .rsavp1 _ _ _ _ | .rsadp _ _ _ _ | .rsasp1 _ _ _ _ | .rsadpCrt _ _ _
  | .rsasp1Crt _ _ _ | .eme15Enc _ _ _ | .eme15Dec _ _ | .cteq _ _ => none

/-- The OS destination of a command. -/
def destOS : Instr → Option RegIdx
  | .hash _ rd _ | .mgf1 _ rd _ | .i2osp rd _ | .oaepEnc _ rd _ _ _ | .oaepDec _ rd _ _ | .eme15Enc rd _ _ | .eme15Dec rd _
  | .pssEnc _ rd _ _ | .emsa15Enc _ rd _ => some rd
  | .os2ip _ _ | .rsaep _ _ _ _ | .rsavp1 _ _ _ _ | .rsadp _ _ _ _ | .rsasp1 _ _ _ _ | .rsadpCrt _ _ _ | .rsasp1Crt _ _ _
  | .pssVer _ _ _ | .emsa15Ver _ _ _ | .cteq _ _ => none

/-- The N destination of a command. -/
def destN : Instr → Option RegIdx
  | .os2ip rd _ | .rsaep rd _ _ _ | .rsavp1 rd _ _ _ | .rsadp rd _ _ _ | .rsasp1 rd _ _ _ | .rsadpCrt rd _ _
  | .rsasp1Crt rd _ _ => some rd
  | .hash _ _ _ | .mgf1 _ _ _ | .i2osp _ _ | .oaepEnc _ _ _ _ _ | .oaepDec _ _ _ _ | .eme15Enc _ _ _ | .eme15Dec _ _
  | .pssEnc _ _ _ _ | .pssVer _ _ _ | .emsa15Enc _ _ _ | .emsa15Ver _ _ _ | .cteq _ _ => none

/-- The OS registers a command reads when LRNGSRC is `src` (R134 step 3). -/
def osSources (src : Bool) : Instr → List RegIdx
  | .hash _ _ r | .mgf1 _ _ r | .os2ip _ r | .eme15Dec _ r | .emsa15Enc _ _ r => [r]
  | .oaepEnc _ _ r1 r2 r3 => if src then [r1, r2, r3] else [r1, r2]
  | .oaepDec _ _ r1 r2 | .pssVer _ r1 r2 | .emsa15Ver _ r1 r2 | .cteq r1 r2 => [r1, r2]
  | .eme15Enc _ r1 r3 | .pssEnc _ _ r1 r3 => if src then [r1, r3] else [r1]
  | .i2osp _ _ | .rsaep _ _ _ _ | .rsavp1 _ _ _ _ | .rsadp _ _ _ _ | .rsasp1 _ _ _ _ | .rsadpCrt _ _ _
  | .rsasp1Crt _ _ _ => []

/-- The key block of a CRT command with `t` triplets at base `b`: N[b] to N[b+4+3t] (R102, R245). -/
def blockRegs (b : RegIdx) (t : Nat) : List RegIdx :=
  (List.range (5 + 3 * t)).map fun j => regAt (b.val + j)

/-- The N registers a command reads when LPARAM0 is `t` (R134 step 3). -/
def nSources (t : Nat) : Instr → List RegIdx
  | .i2osp _ r => [r]
  | .rsaep _ r1 r2 r3 | .rsavp1 _ r1 r2 r3 | .rsadp _ r1 r2 r3 | .rsasp1 _ r1 r2 r3 => [r1, r2, r3]
  | .rsadpCrt _ r1 b | .rsasp1Crt _ r1 b => r1 :: blockRegs b t
  | .hash _ _ _ | .mgf1 _ _ _ | .os2ip _ _ | .oaepEnc _ _ _ _ _ | .oaepDec _ _ _ _ | .eme15Enc _ _ _ | .eme15Dec _ _
  | .pssEnc _ _ _ _ | .pssVer _ _ _ | .emsa15Enc _ _ _ | .emsa15Ver _ _ _ | .cteq _ _ => []

/-- The base of the key block of a CRT command. -/
def blockBase : Instr → Option RegIdx
  | .rsadpCrt _ _ b | .rsasp1Crt _ _ b => some b
  | .hash _ _ _ | .mgf1 _ _ _ | .i2osp _ _ | .os2ip _ _ | .rsaep _ _ _ _ | .rsavp1 _ _ _ _ | .rsadp _ _ _ _ | .rsasp1 _ _ _ _
  | .oaepEnc _ _ _ _ _ | .oaepDec _ _ _ _ | .eme15Enc _ _ _ | .eme15Dec _ _ | .pssEnc _ _ _ _ | .pssVer _ _ _
  | .emsa15Enc _ _ _ | .emsa15Ver _ _ _ | .cteq _ _ => none

/-- Step 3 of R134 passes: the key block fits the file, and every register the command reads is valid. -/
def operandsValid (i : Instr) (s : State) : Prop :=
  (∀ b, blockBase i = some b → b.val + 5 + 3 * s.p0 ≤ 32) ∧
  (∀ r ∈ osSources s.lrngsrc i, (s.os r).isSome) ∧
  (∀ r ∈ nSources s.p0 i, (s.n r).isSome)

/-- The errors a decoded command may raise: R400's table, read by opcode. -/
def mayRaise : Instr → List ErrCode
  | .hash _ _ _          => [.unsupportedAlg, .invalidOperand]
  | .mgf1 _ _ _          => [.unsupportedAlg, .invalidOperand, .capacity]
  | .i2osp _ _           => [.invalidOperand, .capacity, .encoding]
  | .os2ip _ _           => [.invalidOperand]
  | .rsaep _ _ _ _       => [.invalidOperand, .range]
  | .rsavp1 _ _ _ _      => [.invalidOperand, .range]
  | .rsadp _ _ _ _       => [.invalidOperand, .range]
  | .rsasp1 _ _ _ _      => [.invalidOperand, .range]
  | .rsadpCrt _ _ _      => [.invalidOperand, .range, .capacity]
  | .rsasp1Crt _ _ _     => [.invalidOperand, .range, .capacity]
  | .oaepEnc _ _ _ _ _   => [.unsupportedAlg, .invalidOperand, .capacity, .encoding, .randomSource]
  | .oaepDec _ _ _ _     => [.unsupportedAlg, .invalidOperand, .decryption]
  | .eme15Enc _ _ _      => [.invalidOperand, .capacity, .encoding, .randomSource]
  | .eme15Dec _ _        => [.invalidOperand, .decryption]
  | .pssEnc _ _ _ _      => [.unsupportedAlg, .invalidOperand, .capacity, .encoding, .randomSource]
  | .pssVer _ _ _        => [.unsupportedAlg, .invalidOperand]
  | .emsa15Enc _ _ _     => [.unsupportedAlg, .invalidOperand, .capacity, .encoding]
  | .emsa15Ver _ _ _     => [.unsupportedAlg, .invalidOperand]
  | .cteq _ _            => [.invalidOperand]

/-! ### The digest, as the rules write it (R162 to R177) -/

/-- `blocks i` is B(i+1) of the padded message `p`: sixteen words of w bits, each big-endian (R162). -/
def IsParse (w bs : Nat) (p : OctetString) (blocks : Nat → List (BitVec w)) : Prop :=
  ∀ i, i < p.length / bs → (blocks i).length = 16 ∧
    ∀ j, j < 16 → ((blocks i).getD j 0).toNat = os2ip (slice p (i * bs + j * (w / 8)) (i * bs + (j + 1) * (w / 8)))

/-- `r` is Compress1 of the state `h` and `block` (R164 to R166): `wt` is the schedule and `v t` the working variables before
round t. -/
def IsCompress1 (h : Vars5 32) (block : List (BitVec 32)) (r : Vars5 32) : Prop :=
  ∃ (wt : Nat → BitVec 32) (v : Nat → Vars5 32),
    (∀ t, t < 16 → wt t = block.getD t 0) ∧
    (∀ t, 16 ≤ t → t < 80 → wt t = (wt (t - 3) ^^^ wt (t - 8) ^^^ wt (t - 14) ^^^ wt (t - 16)).rotateLeft 1) ∧
    v 0 = h ∧
    (∀ t, t < 80 →
      let x := (v t).b; let y := (v t).c; let z := (v t).d
      let f := if t < 20 then (x &&& y) ^^^ (~~~x &&& z) else if t < 40 then x ^^^ y ^^^ z
        else if t < 60 then (x &&& y) ^^^ (x &&& z) ^^^ (y &&& z) else x ^^^ y ^^^ z
      let k := if t < 20 then 0x5a827999 else if t < 40 then 0x6ed9eba1 else if t < 60 then 0x8f1bbcdc else 0xca62c1d6
      v (t + 1) = ⟨(v t).a.rotateLeft 5 + f + (v t).e + k + wt t, (v t).a, x.rotateLeft 30, y, z⟩) ∧
    r = ⟨h.a + (v 80).a, h.b + (v 80).b, h.c + (v 80).c, h.d + (v 80).d, h.e + (v 80).e⟩

/-- `r` is the SHA-2 compression of the state `h` and `block` with one round per constant of `ks` (R168, R169, R171, R172), over the
functions Σ0, Σ1, σ0, σ1 of the word size. -/
def IsCompress2 {w : Nat} (ks : List (BitVec w)) (bigSigma0 bigSigma1 sigma0 sigma1 : BitVec w → BitVec w)
    (h : Vars8 w) (block : List (BitVec w)) (r : Vars8 w) : Prop :=
  ∃ (wt : Nat → BitVec w) (v : Nat → Vars8 w),
    (∀ t, t < 16 → wt t = block.getD t 0) ∧
    (∀ t, 16 ≤ t → t < ks.length → wt t = sigma1 (wt (t - 2)) + wt (t - 7) + sigma0 (wt (t - 15)) + wt (t - 16)) ∧
    v 0 = h ∧
    (∀ t, t < ks.length →
      let u := v t
      let t1 := u.h + bigSigma1 u.e + ((u.e &&& u.f) ^^^ (~~~u.e &&& u.g)) + ks.getD t 0 + wt t
      let t2 := bigSigma0 u.a + ((u.a &&& u.b) ^^^ (u.a &&& u.c) ^^^ (u.b &&& u.c))
      v (t + 1) = ⟨t1 + t2, u.a, u.b, u.c, u.d + t1, u.e, u.f, u.g⟩) ∧
    let u := v ks.length
    r = ⟨h.a + u.a, h.b + u.b, h.c + u.c, h.d + u.d, h.e + u.e, h.f + u.f, h.g + u.g, h.h + u.h⟩

/-- Compress256 (R167 to R169): 64 rounds. -/
def IsCompress256 (h : Vars8 32) (block : List (BitVec 32)) (r : Vars8 32) : Prop :=
  k256.length = 64 ∧
  IsCompress2 k256
    (fun x => x.rotateRight 2 ^^^ x.rotateRight 13 ^^^ x.rotateRight 22)
    (fun x => x.rotateRight 6 ^^^ x.rotateRight 11 ^^^ x.rotateRight 25)
    (fun x => x.rotateRight 7 ^^^ x.rotateRight 18 ^^^ x >>> 3)
    (fun x => x.rotateRight 17 ^^^ x.rotateRight 19 ^^^ x >>> 10) h block r

/-- Compress512 (R170 to R172): 80 rounds. -/
def IsCompress512 (h : Vars8 64) (block : List (BitVec 64)) (r : Vars8 64) : Prop :=
  k512.length = 80 ∧
  IsCompress2 k512
    (fun x => x.rotateRight 28 ^^^ x.rotateRight 34 ^^^ x.rotateRight 39)
    (fun x => x.rotateRight 14 ^^^ x.rotateRight 18 ^^^ x.rotateRight 41)
    (fun x => x.rotateRight 1 ^^^ x.rotateRight 8 ^^^ x >>> 7)
    (fun x => x.rotateRight 19 ^^^ x.rotateRight 61 ^^^ x >>> 6) h block r

/-- `digest` is the first `n` octets of the state words, each written out big-endian, after `compress` has taken in every block of
Pad(M) from `iv` (R175, R177). -/
def IsHash {w : Nat} {H : Type} (bs n : Nat) (compress : H → List (BitVec w) → H → Prop) (words : H → List (BitVec w))
    (iv : H) (m digest : OctetString) : Prop :=
  ∃ (blocks : Nat → List (BitVec w)) (h : Nat → H),
    let count := (pad bs m).length / bs
    IsParse w bs (pad bs m) blocks ∧
    h 0 = iv ∧ (∀ i, i < count → compress (h i) (blocks i) (h (i + 1))) ∧
    digest.length = n ∧
    ∀ k, k < n → (digest.getD k 0).toNat =
      ((words (h count)).getD (k / (w / 8)) 0).toNat / 256 ^ (w / 8 - 1 - k % (w / 8)) % 256

/-- `digest` is Hash_a(M), with the block size, datapath, initial value and digest length of R160, R163 and R173. -/
def IsDigest (a : HashAlg) (m digest : OctetString) : Prop :=
  match a with
  | .sha1       => IsHash 64 20 IsCompress1 Vars5.words ivSha1 m digest
  | .sha224     => IsHash 64 28 IsCompress256 Vars8.words ivSha224 m digest
  | .sha256     => IsHash 64 32 IsCompress256 Vars8.words ivSha256 m digest
  | .sha384     => IsHash 128 48 IsCompress512 Vars8.words ivSha384 m digest
  | .sha512     => IsHash 128 64 IsCompress512 Vars8.words ivSha512 m digest
  | .sha512_224 => IsHash 128 28 IsCompress512 Vars8.words ivSha512_224 m digest
  | .sha512_256 => IsHash 128 32 IsCompress512 Vars8.words ivSha512_256 m digest

/-! ### Consistent CRT keys (R249) -/

/-- Every prime of the key, in the order r_1, r_2, …, r_u. -/
def CrtKey.primes (k : CrtKey) : List Nat := k.p :: k.q :: k.triplets.map (·.r)

/-- Each triplet's d_i is d mod (r_i − 1), and its t_i inverts the product `earlier` of the primes before it. -/
def tripletsConsistent (d : Nat) : Nat → List Triplet → Prop
  | _, []              => True
  | earlier, tr :: trs =>
    tr.d = d % (tr.r - 1) ∧ tr.t * earlier % tr.r = 1 % tr.r ∧ tripletsConsistent d (earlier * tr.r) trs

/-- The key material of R249: distinct primes with product n, reduced exponents, coefficients that invert, and d·e ≡ 1 modulo the
least common multiple of the r_i − 1. -/
def CrtKey.Consistent (k : CrtKey) (n e d : Nat) : Prop :=
  (∀ r ∈ k.primes, r.Prime) ∧ k.primes.Nodup ∧ n = k.primes.prod ∧
  k.dP = d % (k.p - 1) ∧ k.dQ = d % (k.q - 1) ∧ k.qInv * k.q % k.p = 1 % k.p ∧
  tripletsConsistent d (k.p * k.q) k.triplets ∧
  d * e ≡ 1 [MOD (k.primes.map (· - 1)).foldr Nat.lcm 1]

end Sys2Proof.Machine
end

