-- ==== Sys2Proof/Certificates/Slice0/Obligations.lean ====
section
/-! DEFINITION. The statements about the device, for the provers. Rule numbers R<n> are those of spec/. The device has no byte memory
(spec/20_memory.md R70): its register files are the memory, so a frame names registers. -/

open Sys2Proof Sys2Proof.Machine

/-! ### Encoding (spec/30_encoding.md) -/

/-- R101, R104, R107: decoding the encoded word of any command gives the command back, every operand at every value. -/
def Obligations.DecodeInvertsEncode : Prop :=
  ∀ i : Instr, decode (encode i) = some i

/-- R101, R104, R107: a word decodes to a command only if it is that command's word, so no two words share a command and no bit of
a legal word is ignored. -/
def Obligations.EncodeInvertsDecode : Prop :=
  ∀ (w : Word) (i : Instr), decode w = some i → encode i = w

/-- R105, R106, R107: the decoder accepts exactly the well-formed words. -/
def Obligations.DecodeAcceptsExactlyWellFormed : Prop :=
  ∀ w : Word, (decode w).isSome = (CmdFields.ofWord w).wellFormed

/-- R108 and the words of 95_test_vectors.md §B: one word of every family decodes to the command it stands for. -/
def Obligations.SpecWordsDecode : Prop :=
  decode 0x00004481 = some (.hash (some .sha256) 2 1) ∧
  decode 0x0000C802 = some (.mgf1 (some .sha1) 4 3) ∧
  decode 0x00004A03 = some (.i2osp 5 1) ∧
  decode 0x03104A05 = some (.rsaep 5 1 2 3) ∧
  decode 0x00404809 = some (.rsadpCrt 4 1 8) ∧
  decode 0x0910460B = some (.oaepEnc (some .sha1) 3 1 2 9) ∧
  decode 0x0900468F = some (.pssEnc (some .sha256) 3 1 9) ∧
  decode 0x00104012 = some (.emsa15Ver (some .sha1) 1 2) ∧
  decode 0x005A8013 = some (.cteq 10 11)

/-! ### Steps (spec/40_common.md, spec/20_memory.md) -/

/-- R132, R134: on the engine's turn with BUSY = 1 and a latched word that decodes, the step is `exec` of the decoded command, the
turn taken off the schedule and nothing else around it. That an empty schedule is the engine's turn, the second clause, is the
model's choice (log entry 3). -/
def Obligations.EngineRunsDecodedCommand : Prop :=
  ∀ (s : State) (i : Instr), s.status.busy = true → decode s.lcmd = some i →
    (∀ rest, s.schedule = .engine :: rest → step s = exec i (afterTurn s rest)) ∧
    (s.schedule = [] → step s = exec i s)

/-- R105: a latched word that is not well-formed (opcode without a row, RSV nonzero, an unused field nonzero) completes with
ILLEGAL_CMD; no register is written, RESULT and CTITER are unchanged. -/
def Obligations.IllegalWordCompletes : Prop :=
  ∀ (s : State) (rest : List Turn), s.status.busy = true → s.schedule = .engine :: rest →
    (CmdFields.ofWord s.lcmd).wellFormed = false →
    step s = .next (errored (afterTurn s rest) .illegalCmd)

/-- The model's `withFetchWord` (log entry 3): the very next step executes the word's command, on the state R131's issue leaves. -/
def Obligations.FetchWordRunsNext : Prop :=
  ∀ (s : State) (nbits w : Nat) (i : Instr), decodeTableWord nbits w = some i →
    step (s.withFetchWord nbits w) = exec i (s.acceptCommand (BitVec.ofNat 32 (w % 2 ^ nbits)))

/-- R132: the engine's step is enabled exactly when BUSY = 1, and it always completes the command: the step answers a next state with
BUSY = 0 and DONE = 1; on the engine's turn with BUSY = 0 nothing happens. That an empty schedule is the engine's turn and that such
a turn with BUSY = 0 changes nothing are the model's choices (log entry 3). -/
def Obligations.EveryIssuedCommandCompletes : Prop :=
  ∀ s : State, engineNext s →
    (s.status.busy = true → ∃ t, step s = .next t ∧ t.status.busy = false ∧ t.status.done = true) ∧
    (s.status.busy = false → step s = .next (afterTurn s s.schedule.tail))

/-- R132, R450: an issued command completes after a bounded number of turns, whatever admitted host accesses come first. The bound is the
model's: an empty schedule is the engine's turn (log entry 3). -/
def Obligations.BusyCommandCompletesInBoundedTurns : Prop :=
  ∀ s : State, s.status.busy = true →
    (∀ x ∈ s.schedule, x ≠ .reset ∧ ∀ a, x = .host a → (a.offset s.cfg).isSome) →
    ∃ (k : Nat) (t : State), k ≤ s.schedule.length + 1 ∧ Host.Core.run Sys2Proof.core k s = .next t ∧
      t.status.busy = false ∧ t.status.done = true

/-- R71, R132: no step faults, and a step is refused only when the host's turn holds an access R71 does not admit. -/
def Obligations.StepStopsOnlyOnRefusedAccess : Prop :=
  ∀ s : State, (∃ t, step s = .next t) ∨
    ∃ a rest, s.schedule = .host a :: rest ∧ a.offset s.cfg = none ∧ step s = .refused (.accessNotAdmitted a)

/-- R71: an access is admitted exactly when it is 32 bits wide, inside the window and at a multiple of 4; any other is refused. -/
def Obligations.AccessAdmission : Prop :=
  ∀ (s : State) (rest : List Turn) (size : AccessSize) (addr : Nat) (v : Word) (a : HostAccess),
    a = .read size addr ∨ a = .write size addr v → s.schedule = .host a :: rest →
    (size = .word ∧ s.cfg.baseAddr ≤ addr ∧ addr ≤ s.cfg.baseAddr + 0xFC ∧ (addr - s.cfg.baseAddr) % 4 = 0 →
      ∃ t, step s = .next t) ∧
    (¬ (size = .word ∧ s.cfg.baseAddr ≤ addr ∧ addr ≤ s.cfg.baseAddr + 0xFC ∧ (addr - s.cfg.baseAddr) % 4 = 0) →
      step s = .refused (.accessNotAdmitted a))

/-! ### The invariant -/

/-- The invariant holds after reset, for every admissible configuration. -/
def Obligations.ResetSatisfiesInvariant : Prop :=
  ∀ c : Config, c.ok = true → (State.resetWith c).Inv

/-- R31, R32, R39, R411: every step keeps the invariant: strings within OS_MAXLEN, integers below 256^OS_MAXLEN, no outcome shown
while BUSY = 1, ERR exactly when ERRCODE is nonzero, no true RESULT beside an error, CMD equal to the latched word. -/
def Obligations.StepKeepsInvariant : Prop :=
  ∀ s t : State, s.Inv → step s = .next t → t.Inv

/-! ### Errors (spec/60_exceptions.md) -/

/-- R137: a command word that completes with an error, be it illegal or not, changes no register and no CTITER, leaves RESULT = 0, and
the state after the error differs from the state before the issue only in BUSY, DONE, ERR, RESULT, ERRCODE, the CMD read-back and the
latches. -/
def Obligations.ErrorsArePrecise : Prop :=
  ∀ (s t : State) (w : Word) (c : ErrCode), s.status.busy = false →
    step (s.withFetchWord 32 w.toNat) = .next t → t.errcode = some c →
    t = { s with
      status := { s.status with busy := false, done := true, err := true, result := false }
      errcode := some c, cmd := w, lcmd := w, lparam0 := s.param0, lparam1 := s.param1, lrngsrc := s.ctrl.rngsrc }

/-- R400: the code numbers, and which command may end with which error, from every state whose registers lie within their capacity;
ILLEGAL_CMD comes from no decoded command. -/
def Obligations.ErrorsByOpcode : Prop :=
  (errWord none = 0 ∧ errWord (some .encoding) = 1 ∧ errWord (some .range) = 2 ∧ errWord (some .decryption) = 3 ∧
    errWord (some .unsupportedAlg) = 4 ∧ errWord (some .illegalCmd) = 5 ∧ errWord (some .invalidOperand) = 6 ∧
    errWord (some .capacity) = 7 ∧ errWord (some .randomSource) = 8) ∧
  ∀ (i : Instr) (s t : State) (c : ErrCode), s.osFit → s.nFit → s.errcode = none → exec i s = .next t →
    t.errcode = some c → c ∈ mayRaise i ∧ (c = .randomSource → s.lrngsrc = true)

/-- R404: every command that uses ALG fails with UNSUPPORTED_ALG, code 4, when ALG = 7, whatever its operands. -/
def Obligations.UnsupportedAlgComesBeforeOperands : Prop :=
  errWord (some .unsupportedAlg) = 4 ∧
  ∀ (i : Instr) (s : State), algOf i = some none → exec i s = .next (errored s .unsupportedAlg)

/-- R134 step 3, R406: a command whose algorithm is selected fails with INVALID_OPERAND, code 6, exactly when a register it reads is invalid
or its key block overflows the file. -/
def Obligations.InvalidOperandExactly : Prop :=
  errWord (some .invalidOperand) = 6 ∧
  ∀ (i : Instr) (s : State), algOf i ≠ some none →
    (¬ operandsValid i s → exec i s = .next (errored s .invalidOperand)) ∧
    (operandsValid i s → ∀ t, s.errcode = none → exec i s = .next t → t.errcode ≠ some .invalidOperand)

/-! ### Frames -/

/-- R133, R136, R138: the frame of every command. Every register but the destination keeps its contents; CTITER changes only by CTEQ;
of STATUS only BUSY, DONE, ERR and RESULT change; nothing else of the state does, but for the model's draw counter. -/
def Obligations.CommandFrame : Prop :=
  ∀ (i : Instr) (s t : State), exec i s = .next t →
    (∀ r, destOS i ≠ some r → t.os r = s.os r) ∧
    (∀ r, destN i ≠ some r → t.n r = s.n r) ∧
    ((∀ r1 r2, i ≠ .cteq r1 r2) → t.ctiter = s.ctiter) ∧
    t.status.cmdovf = s.status.cmdovf ∧ t.status.hosterr = s.status.hosterr ∧
    t = { s with
      osRegs := t.osRegs, nRegs := t.nRegs, status := t.status, errcode := t.errcode, ctiter := t.ctiter
      drawCount := t.drawCount }

/-- R50, R87, R444: the engine reads only the latched copies: what stands in CTRL, PARAM0, PARAM1, SEL, OSPTR and the CMD read-back
while a command executes has no influence on it. -/
def Obligations.CommandReadsOnlyLatchedState : Prop :=
  ∀ (i : Instr) (s : State) (ctrl : Ctrl) (p0 p1 cmd ptr : Word) (sel : RegIdx),
    let f : State → State := fun u =>
      { u with ctrl := ctrl, param0 := p0, param1 := p1, cmd := cmd, osptr := ptr, sel := sel }
    exec i (f s) = mapNext f (exec i s)

/-- R74: no result depends on LANE_ORDER: a step of the device with another lane order is the same step. -/
def Obligations.LaneOrderUnobservable : Prop :=
  ∀ (s : State) (lanes : Vector (Fin 4) 4),
    let f : State → State := fun u => { u with cfg := { u.cfg with laneOrder := lanes } }
    step (f s) = mapNext f (step s)

/-! ### The hash unit and MGF1 (spec/41_hash.md, spec/43_mgf1.md) -/

/-- R160, R162 to R173, R175 to R177, R179: HASH writes the digest of the message, and the digest is what the rules give: the blocks of Pad(M) parsed big-endian,
the schedule, round functions and compression of the algorithm's datapath, iterated from its initial value, and the state words
written out big-endian and truncated (`IsDigest`, letter for letter). The source may be the destination. -/
def Obligations.HashWritesDigest : Prop :=
  ∀ (a : HashAlg) (rd rs1 : RegIdx) (s : State) (m : OctetString), s.os rs1 = some m →
    exec (.hash (some a) rd rs1) s = .next (wroteOS s rd (hashOf a m)) ∧ IsDigest a m (hashOf a m)

/-- R161: Pad(M) is M, 0x80, the least number z of zero octets that fills whole blocks with the length field, and the bit length
big-endian in 8 or 16 octets; ε pads to one block, and the second block starts at 56 and at 112 octets. -/
def Obligations.PaddingIsLeast : Prop :=
  ∀ (bs : Nat) (m : OctetString), (bs = 64 ∨ bs = 128) →
    let F := if bs = 64 then 8 else 16
    (∃ z, pad bs m = m ++ [0x80] ++ List.replicate z 0 ++ toOctets F (8 * m.length) ∧
      (m.length + 1 + z + F) % bs = 0 ∧ ∀ y, y < z → (m.length + 1 + y + F) % bs ≠ 0) ∧
    (m.length + 1 + F ≤ bs → (pad bs m).length = bs) ∧
    (bs < m.length + 1 + F → m.length ≤ bs → (pad bs m).length = 2 * bs)

/-- R165, R168, R171: the three message schedules: the block's words, then the recurrence, for every t. -/
def Obligations.ScheduleRecurrences : Prop :=
  (∀ b : List (BitVec 32), b.length = 16 →
    let w := schedule sha1Next (roundCount .sha1 - 16) b
    w.length = 80 ∧ (∀ t, t < 16 → w.getD t 0 = b.getD t 0) ∧
    ∀ t, 16 ≤ t → t < 80 →
      w.getD t 0 = rotl 1 (w.getD (t - 3) 0 ^^^ w.getD (t - 8) 0 ^^^ w.getD (t - 14) 0 ^^^ w.getD (t - 16) 0)) ∧
  (∀ b : List (BitVec 32), b.length = 16 →
    let w := schedule256 b
    w.length = 64 ∧ (∀ t, t < 16 → w.getD t 0 = b.getD t 0) ∧
    ∀ t, 16 ≤ t → t < 64 →
      w.getD t 0 =
        sigma1_256 (w.getD (t - 2) 0) + w.getD (t - 7) 0 + sigma0_256 (w.getD (t - 15) 0) + w.getD (t - 16) 0) ∧
  (∀ b : List (BitVec 64), b.length = 16 →
    let w := schedule512 b
    w.length = 80 ∧ (∀ t, t < 16 → w.getD t 0 = b.getD t 0) ∧
    ∀ t, 16 ≤ t → t < 80 →
      w.getD t 0 =
        sigma1_512 (w.getD (t - 2) 0) + w.getD (t - 7) 0 + sigma0_512 (w.getD (t - 15) 0) + w.getD (t - 16) 0)

/-- R220: octet j of MGF1(seed, maskLen) is octet j mod hLen of Hash(seed ‖ BE32(j / hLen)); the mask has maskLen octets. -/
def Obligations.Mgf1OctetsByCounter : Prop :=
  ∀ (a : HashAlg) (seed : OctetString) (maskLen : Nat), (mgf1 a seed maskLen).length = maskLen ∧
    ∀ j, j < maskLen →
      (mgf1 a seed maskLen).getD j 0 = (hashOf a (seed ++ toOctets 4 (j / hLen a))).getD (j % hLen a) 0

/-- R221: MGF1 writes the mask of PARAM0 octets, or fails with CAPACITY when PARAM0 > OS_MAXLEN. -/
def Obligations.Mgf1WritesMask : Prop :=
  ∀ (a : HashAlg) (rd rs1 : RegIdx) (s : State) (seed : OctetString), s.os rs1 = some seed →
    (s.lparam0.toNat ≤ s.cfg.osMaxLen →
      exec (.mgf1 (some a) rd rs1) s = .next (wroteOS s rd (mgf1 a seed s.lparam0.toNat))) ∧
    (s.cfg.osMaxLen < s.lparam0.toNat → exec (.mgf1 (some a) rd rs1) s = .next (errored s .capacity))

/-! ### Conversion (spec/44_conversion.md) -/

/-- R230, R232: I2OSP writes the xLen octets X[j] = floor(x / 256^(xLen−1−j)) mod 256; CAPACITY when xLen > OS_MAXLEN, before ENCODING
when x ≥ 256^xLen. -/
def Obligations.I2ospWritesOctets : Prop :=
  ∀ (rd rs1 : RegIdx) (s : State) (x : Nat), s.n rs1 = some x →
    (s.lparam0.toNat ≤ s.cfg.osMaxLen → x < 256 ^ s.lparam0.toNat →
      ∃ X : OctetString, exec (.i2osp rd rs1) s = .next (wroteOS s rd X) ∧ X.length = s.lparam0.toNat ∧
        ∀ j, j < s.lparam0.toNat → (X.getD j 0).toNat = x / 256 ^ (s.lparam0.toNat - 1 - j) % 256) ∧
    (s.cfg.osMaxLen < s.lparam0.toNat → exec (.i2osp rd rs1) s = .next (errored s .capacity)) ∧
    (s.lparam0.toNat ≤ s.cfg.osMaxLen → 256 ^ s.lparam0.toNat ≤ x →
      exec (.i2osp rd rs1) s = .next (errored s .encoding))

/-- R231, R233: OS2IP writes Σ X[j]·256^(|X|−1−j), and never fails on a valid register. -/
def Obligations.Os2ipWritesInteger : Prop :=
  ∀ (rd rs1 : RegIdx) (s : State) (X : OctetString), s.os rs1 = some X → X.length ≤ s.cfg.osMaxLen →
    exec (.os2ip rd rs1) s =
      .next (wroteN s rd ((Finset.range X.length).sum fun j => (X.getD j 0).toNat * 256 ^ (X.length - 1 - j)))

/-- R234: OS2IP(I2OSP(x, L)) = x for x < 256^L, I2OSP fails for x ≥ 256^L, I2OSP(OS2IP(X), |X|) = X; and the two commands round-trip
when the host passes the original length. -/
def Obligations.ConversionRoundTrip : Prop :=
  (∀ x L : Nat, x < 256 ^ L → ∃ X, i2osp x L = .ok X ∧ os2ip X = x) ∧
  (∀ x L : Nat, 256 ^ L ≤ x → i2osp x L = .error .encoding) ∧
  (∀ X : OctetString, i2osp (os2ip X) X.length = .ok X) ∧
  (∀ (s : State) (rn rs rd : RegIdx) (X : OctetString) (w : Word), s.os rs = some X → X.length ≤ s.cfg.osMaxLen →
    s.param0.toNat = X.length →
    ∃ t, exec (.os2ip rn rs) s = .next t ∧
      exec (.i2osp rd rn) (t.acceptCommand w) = .next (wroteOS (t.acceptCommand w) rd X))

/-! ### RSA (spec/45_rsa.md) -/

/-- R240: ModExp(b, e, n) is the r below n with r ≡ b^e (mod n); b^0 = 1 for every b, and the modulus 1 gives 0. -/
def Obligations.ModularPowerExact : Prop :=
  ∀ b e n : Nat, 1 ≤ n →
    modExp b e n < n ∧ modExp b e n ≡ b ^ e [MOD n] ∧ modExp b 0 n = 1 % n ∧ modExp b e 1 = 0

/-- R241 to R244: each exponent-form primitive writes x^e mod n for x < n, and fails with RANGE for x ≥ n. -/
def Obligations.ExponentPrimitives : Prop :=
  ∀ (i : Instr) (rd rs1 rs2 rs3 : RegIdx) (s : State) (x n e : Nat),
    (i = .rsaep rd rs1 rs2 rs3 ∨ i = .rsavp1 rd rs1 rs2 rs3 ∨ i = .rsadp rd rs1 rs2 rs3 ∨ i = .rsasp1 rd rs1 rs2 rs3) →
    s.n rs1 = some x → s.n rs2 = some n → s.n rs3 = some e → n < 256 ^ s.cfg.osMaxLen →
    (x < n → exec i s = .next (wroteN s rd (x ^ e % n))) ∧
    (n ≤ x → exec i s = .next (errored s .range))

/-- R245: the key block: its layout, for every number t of triplets; it must fit the file and be valid whole, or the command fails with
INVALID_OPERAND; at most nine triplets fit. -/
def Obligations.CrtKeyBlock : Prop :=
  (∀ (t : Nat) (vs : List Nat), vs.length = 5 + 3 * t →
    (keyOf vs).p = vs.getD 0 0 ∧ (keyOf vs).q = vs.getD 1 0 ∧ (keyOf vs).dP = vs.getD 2 0 ∧
    (keyOf vs).dQ = vs.getD 3 0 ∧ (keyOf vs).qInv = vs.getD 4 0 ∧ (keyOf vs).triplets.length = t ∧
    ∀ j, j < t → (keyOf vs).triplets.getD j ⟨0, 0, 0⟩ =
      ⟨vs.getD (5 + 3 * j) 0, vs.getD (6 + 3 * j) 0, vs.getD (7 + 3 * j) 0⟩) ∧
  (∀ (i : Instr) (rd rs1 b : RegIdx) (s : State), (i = .rsadpCrt rd rs1 b ∨ i = .rsasp1Crt rd rs1 b) →
    (32 < b.val + 5 + 3 * s.lparam0.toNat ∨ (∃ j, j < 5 + 3 * s.lparam0.toNat ∧ s.n (regAt (b.val + j)) = none)) →
    exec i s = .next (errored s .invalidOperand)) ∧
  (∀ t : Nat, (∃ b : RegIdx, b.val + 5 + 3 * t ≤ 32) ↔ t ≤ 9)

/-- R247, R248: each CRT primitive with a valid key block `vs` writes the CRT value of its key; RANGE when the input is not below the
product of the primes, then CAPACITY when the value does not fit a register. -/
def Obligations.CrtPrimitives : Prop :=
  ∀ (i : Instr) (rd rs1 b : RegIdx) (s : State) (c : Nat) (vs : List Nat),
    (i = .rsadpCrt rd rs1 b ∨ i = .rsasp1Crt rd rs1 b) →
    b.val + 5 + 3 * s.lparam0.toNat ≤ 32 → vs.length = 5 + 3 * s.lparam0.toNat → s.n rs1 = some c →
    (∀ j, j < vs.length → s.n (regAt (b.val + j)) = some (vs.getD j 0)) →
    (c < (keyOf vs).primes.prod → crtValue c (keyOf vs) < 256 ^ s.cfg.osMaxLen →
      exec i s = .next (wroteN s rd (crtValue c (keyOf vs)))) ∧
    ((keyOf vs).primes.prod ≤ c → exec i s = .next (errored s .range)) ∧
    (c < (keyOf vs).primes.prod → 256 ^ s.cfg.osMaxLen ≤ crtValue c (keyOf vs) →
      exec i s = .next (errored s .capacity))

/-- R246: Garner's combination: the two-prime value, what one more triplet adds (R is the product of the primes before it, the
difference taken in the integers), and the value lies below the product of the primes. -/
def Obligations.GarnerCombination : Prop :=
  (∀ (c p q dP dQ qInv : Nat), 0 < p → ∃ h : Nat,
    (h : Int) = ((c ^ dP % p : Nat) - (c ^ dQ % q : Nat) : Int) * qInv % p ∧
    crtValue c ⟨p, q, dP, dQ, qInv, []⟩ = c ^ dQ % q + q * h) ∧
  (∀ (c : Nat) (k : CrtKey) (tr : Triplet), 0 < tr.r → ∃ h : Nat,
    (h : Int) = ((c ^ tr.d % tr.r : Nat) - (crtValue c k : Nat) : Int) * tr.t % tr.r ∧
    crtValue c { k with triplets := k.triplets ++ [tr] } = crtValue c k + k.primes.prod * h) ∧
  (∀ (c : Nat) (k : CrtKey), c < k.primes.prod → crtValue c k < k.primes.prod)

/-- R249 for odd primes: with consistent key material the CRT form and the exponent form give the same value, for every input below n.
R249 itself does not exclude the prime 2, where it fails: see `CrtEquivalenceNeedsOddPrimes` (log entry 9). -/
def Obligations.CrtMatchesExponentForm : Prop :=
  ∀ (k : CrtKey) (n e d c : Nat), k.Consistent n e d → (∀ r ∈ k.primes, r ≠ 2) → c < n →
    crtValue c k = c ^ d % n

/-- A key that meets every condition of R249 and has the prime 2, on which the two forms differ: the exponent d mod (2 − 1) is 0, and
c^0 = 1 by R240. So R249 needs odd primes (log entry 9). -/
def Obligations.CrtEquivalenceNeedsOddPrimes : Prop :=
  ∃ (k : CrtKey) (n e d c : Nat), k.Consistent n e d ∧ 2 ∈ k.primes ∧ c < n ∧ crtValue c k ≠ c ^ d % n

/-! ### Encryption encodings (spec/46_eme.md) -/

/-- R260, R261: OAEP.ENC writes 00 ‖ maskedSeed ‖ maskedDB of k octets, the seed from the internal source or the leading hLen octets of
the RS3 register; CAPACITY, then ENCODING, then RANDOM_SOURCE. -/
def Obligations.OaepEncoderWrites : Prop :=
  ∀ (a : HashAlg) (rd rs1 rs2 rs3 : RegIdx) (s : State) (m label : OctetString),
    s.os rs1 = some m → s.os rs2 = some label →
    let k := s.lparam0.toNat
    let h := hLen a
    let em (seed : OctetString) : OctetString :=
      let maskedDB := xorOctets (hashOf a label ++ List.replicate (k - m.length - 2 * h - 2) 0 ++ [0x01] ++ m)
        (mgf1 a seed (k - h - 1))
      [0x00] ++ xorOctets seed (mgf1 a maskedDB h) ++ maskedDB
    let run := exec (.oaepEnc (some a) rd rs1 rs2 rs3) s
    (s.lrngsrc = false → k ≤ s.cfg.osMaxLen → m.length + 2 * h + 2 ≤ k →
      run = .next (drew (wroteOS s rd (em (draw s.drawCount h))) h)) ∧
    (∀ src, s.lrngsrc = true → s.os rs3 = some src → k ≤ s.cfg.osMaxLen → m.length + 2 * h + 2 ≤ k →
      (h ≤ src.length → run = .next (wroteOS s rd (em (src.take h)))) ∧
      (src.length < h → run = .next (errored s .randomSource))) ∧
    ((s.lrngsrc = false ∨ (s.os rs3).isSome) →
      (s.cfg.osMaxLen < k → run = .next (errored s .capacity)) ∧
      (k ≤ s.cfg.osMaxLen → k < m.length + 2 * h + 2 → run = .next (errored s .encoding)))

/-- R262: OAEP decoding gives M exactly when |EM| = k ≥ 2h + 2, the first octet is 00, and the unmasked DB is
lHash ‖ 00…00 ‖ 01 ‖ M. -/
def Obligations.OaepDecoderAcceptsExactly : Prop :=
  ∀ (a : HashAlg) (em label m : OctetString) (k : Nat),
    oaepDecode a em label k = .ok m ↔
      em.length = k ∧ 2 * hLen a + 2 ≤ k ∧ em.head? = some 0 ∧
      ∃ z, oaepRecoverDB a em k = hashOf a label ++ List.replicate z 0 ++ [0x01] ++ m

/-- R265, R266: EME15.ENC writes 00 ‖ 02 ‖ PS ‖ 00 ‖ M of k octets with |PS| = k − |M| − 3 nonzero octets, from the internal source or
the RS3 register; CAPACITY, then ENCODING, then RANDOM_SOURCE. -/
def Obligations.Eme15EncoderWrites : Prop :=
  ∀ (rd rs1 rs3 : RegIdx) (s : State) (m : OctetString), s.os rs1 = some m →
    let k := s.lparam0.toNat
    let n := k - m.length - 3
    let em (ps : OctetString) : OctetString := [0x00, 0x02] ++ ps ++ [0x00] ++ m
    let run := exec (.eme15Enc rd rs1 rs3) s
    (s.lrngsrc = false → k ≤ s.cfg.osMaxLen → m.length + 11 ≤ k →
      run = .next (drew (wroteOS s rd (em (drawNonzero s.drawCount n))) n) ∧
      (drawNonzero s.drawCount n).length = n ∧ ∀ b ∈ drawNonzero s.drawCount n, b ≠ 0) ∧
    (∀ src, s.lrngsrc = true → s.os rs3 = some src → k ≤ s.cfg.osMaxLen → m.length + 11 ≤ k →
      (n ≤ src.length → (∀ b ∈ src.take n, b ≠ 0) → run = .next (wroteOS s rd (em (src.take n)))) ∧
      (src.length < n ∨ (0 : Byte) ∈ src.take n → run = .next (errored s .randomSource))) ∧
    ((s.lrngsrc = false ∨ (s.os rs3).isSome) →
      (s.cfg.osMaxLen < k → run = .next (errored s .capacity)) ∧
      (k ≤ s.cfg.osMaxLen → k < m.length + 11 → run = .next (errored s .encoding)))

/-- R267: PKCS#1-v1.5 decoding gives M exactly when EM is 00 ‖ 02 ‖ PS ‖ 00 ‖ M of k ≥ 11 octets, PS at least eight nonzero octets. -/
def Obligations.Eme15DecoderAcceptsExactly : Prop :=
  ∀ (em m : OctetString) (k : Nat),
    eme15Decode em k = .ok m ↔
      em.length = k ∧ 11 ≤ k ∧
      ∃ ps : OctetString, 8 ≤ ps.length ∧ (∀ b ∈ ps, b ≠ 0) ∧ em = [0x00, 0x02] ++ ps ++ [0x00] ++ m

/-- R263, R268: the decode commands write the decoded message. -/
def Obligations.DecodersWriteMessage : Prop :=
  (∀ (a : HashAlg) (rd rs1 rs2 : RegIdx) (s : State) (em label m : OctetString),
    s.os rs1 = some em → s.os rs2 = some label → oaepDecode a em label s.lparam0.toNat = .ok m →
    exec (.oaepDec (some a) rd rs1 rs2) s = .next (wroteOS s rd m)) ∧
  (∀ (rd rs1 : RegIdx) (s : State) (em m : OctetString),
    s.os rs1 = some em → eme15Decode em s.lparam0.toNat = .ok m →
    exec (.eme15Dec rd rs1) s = .next (wroteOS s rd m))

/-- R269: decoding inverts encoding, for every message that fits, every label, every seed and every nonzero PS. -/
def Obligations.EncryptionRoundTrip : Prop :=
  (∀ (a : HashAlg) (m label seed : OctetString) (k : Nat), m.length + 2 * hLen a + 2 ≤ k → seed.length = hLen a →
    oaepDecode a (oaepEncodeWith a m label k seed) label k = .ok m) ∧
  (∀ (m ps : OctetString) (k : Nat), m.length + 11 ≤ k → ps.length = k - m.length - 3 → (∀ b ∈ ps, b ≠ 0) →
    eme15Decode (eme15EncodeWith m ps) k = .ok m)

/-- R264: every failed check of OAEP.DEC and EME15.DEC ends the same way: DECRYPTION, code 3, no register written, and nothing in the state shows
which check failed. -/
def Obligations.UniformDecryptionError : Prop :=
  errWord (some .decryption) = 3 ∧
  (∀ (a : HashAlg) (rd rs1 rs2 : RegIdx) (s : State) (em label : OctetString),
    s.os rs1 = some em → s.os rs2 = some label → (∀ m, oaepDecode a em label s.lparam0.toNat ≠ .ok m) →
    exec (.oaepDec (some a) rd rs1 rs2) s = .next (errored s .decryption)) ∧
  (∀ (rd rs1 : RegIdx) (s : State) (em : OctetString),
    s.os rs1 = some em → (∀ m, eme15Decode em s.lparam0.toNat ≠ .ok m) →
    exec (.eme15Dec rd rs1) s = .next (errored s .decryption))

/-! ### Signature encodings (spec/47_emsa.md) -/

/-- R280, R281: PSS.ENC writes maskedDB ‖ H ‖ BC of ⌈emBits/8⌉ octets, the leftmost bits cleared; CAPACITY, then ENCODING, then
RANDOM_SOURCE. -/
def Obligations.PssEncoderWrites : Prop :=
  ∀ (a : HashAlg) (rd rs1 rs3 : RegIdx) (s : State) (m : OctetString), s.os rs1 = some m →
    let emBits := s.lparam0.toNat
    let sLen := s.lparam1.toNat
    let emLen := (emBits + 7) / 8
    let em (salt : OctetString) : OctetString :=
      let H := hashOf a (List.replicate 8 0 ++ hashOf a m ++ salt)
      let masked := xorOctets (List.replicate (emLen - sLen - hLen a - 2) 0 ++ [0x01] ++ salt) (mgf1 a H (emLen - hLen a - 1))
      (masked.getD 0 0 &&& ((0xFF : Byte) >>> (8 * emLen - emBits))) :: masked.tail ++ H ++ [0xBC]
    let run := exec (.pssEnc (some a) rd rs1 rs3) s
    (s.lrngsrc = false → emLen ≤ s.cfg.osMaxLen → hLen a + sLen + 2 ≤ emLen →
      run = .next (drew (wroteOS s rd (em (draw s.drawCount sLen))) sLen)) ∧
    (∀ src, s.lrngsrc = true → s.os rs3 = some src → emLen ≤ s.cfg.osMaxLen → hLen a + sLen + 2 ≤ emLen →
      (sLen ≤ src.length → run = .next (wroteOS s rd (em (src.take sLen)))) ∧
      (src.length < sLen → run = .next (errored s .randomSource))) ∧
    ((s.lrngsrc = false ∨ (s.os rs3).isSome) →
      (s.cfg.osMaxLen < emLen → run = .next (errored s .capacity)) ∧
      (emLen ≤ s.cfg.osMaxLen → emLen < hLen a + sLen + 2 → run = .next (errored s .encoding)))

/-- R282, R283: PSS.VER answers RESULT = 1 exactly when EM is the PSS encoding of the message under some salt of sLen octets and the
length check holds; it is never an error. -/
def Obligations.PssVerifierAcceptsExactly : Prop :=
  ∀ (a : HashAlg) (rs1 rs2 : RegIdx) (s : State) (m em : OctetString),
    s.os rs1 = some m → s.os rs2 = some em →
    ∃ res : Bool, exec (.pssVer (some a) rs1 rs2) s = .next (answered s res) ∧
      (res = true ↔ hLen a + s.lparam1.toNat + 2 ≤ pssEmLen s.lparam0.toNat ∧
        ∃ salt : OctetString, salt.length = s.lparam1.toNat ∧ em = pssEncodeWith a m s.lparam0.toNat salt)

/-- R285, R286: EMSA15.ENC writes 00 ‖ 01 ‖ FF…FF ‖ 00 ‖ DER ‖ digest of emLen octets; CAPACITY, then ENCODING. -/
def Obligations.Emsa15EncoderWrites : Prop :=
  ∀ (a : HashAlg) (rd rs1 : RegIdx) (s : State) (m : OctetString), s.os rs1 = some m →
    let emLen := s.lparam0.toNat
    let T := derPrefix a ++ hashOf a m
    (emLen ≤ s.cfg.osMaxLen → T.length + 11 ≤ emLen →
      exec (.emsa15Enc (some a) rd rs1) s =
        .next (wroteOS s rd ([0x00, 0x01] ++ List.replicate (emLen - T.length - 3) 0xFF ++ [0x00] ++ T))) ∧
    (s.cfg.osMaxLen < emLen → exec (.emsa15Enc (some a) rd rs1) s = .next (errored s .capacity)) ∧
    (emLen ≤ s.cfg.osMaxLen → emLen < T.length + 11 →
      exec (.emsa15Enc (some a) rd rs1) s = .next (errored s .encoding))

/-- R287: EMSA15.VER answers RESULT = 1 exactly when emLen is within bounds and EM equals the encoding; it is never an error. -/
def Obligations.Emsa15VerifierAcceptsExactly : Prop :=
  ∀ (a : HashAlg) (rs1 rs2 : RegIdx) (s : State) (m em : OctetString), s.os rs1 = some m → s.os rs2 = some em →
    exec (.emsa15Ver (some a) rs1 rs2) s =
      .next (answered s (decide (s.lparam0.toNat ≤ s.cfg.osMaxLen ∧ tLen a + 11 ≤ s.lparam0.toNat ∧
        em = emsa15EncodeRaw a m s.lparam0.toNat)))

/-- R288: what the encoders write verifies: for PSS under every salt of sLen octets, and for PKCS#1-v1.5. -/
def Obligations.SignatureRoundTrip : Prop :=
  (∀ (a : HashAlg) (m salt : OctetString) (emBits : Nat), hLen a + salt.length + 2 ≤ pssEmLen emBits →
    pssVerify a m (pssEncodeWith a m emBits salt) emBits salt.length = true) ∧
  (∀ (a : HashAlg) (rs1 rs2 : RegIdx) (s : State) (m : OctetString), s.os rs1 = some m →
    s.lparam0.toNat ≤ s.cfg.osMaxLen → tLen a + 11 ≤ s.lparam0.toNat →
    s.os rs2 = some (emsa15EncodeRaw a m s.lparam0.toNat) →
    exec (.emsa15Ver (some a) rs1 rs2) s = .next (answered s true))

/-! ### Compare (spec/48_compare.md) -/

/-- R300, R301, R302: CTEQ answers RESULT = 1 exactly when the two strings are equal, and writes CTITER = max(|a|, |b|), which depends on
the lengths alone. -/
def Obligations.CompareDecidesEquality : Prop :=
  ∀ (rs1 rs2 : RegIdx) (s : State) (a b : OctetString), s.os rs1 = some a → s.os rs2 = some b →
    exec (.cteq rs1 rs2) s =
      .next { answered s (decide (a = b)) with ctiter := BitVec.ofNat 32 (max a.length b.length) }

/-- R48: CTITER changes only when the device is reset or when an error-free CTEQ completes. -/
def Obligations.OnlyCompareWritesCtiter : Prop :=
  ∀ s t : State, step s = .next t → t.ctiter ≠ s.ctiter →
    s.schedule.head? = some .reset ∨
    (engineNext s ∧ s.status.busy = true ∧ ∃ rs1 rs2 a b, decode s.lcmd = some (.cteq rs1 rs2) ∧
      s.os rs1 = some a ∧ s.os rs2 = some b ∧ t.ctiter = BitVec.ofNat 32 (max a.length b.length))

/-! ### Host accesses (spec/10_state.md, spec/20_memory.md) -/

/-- R131: a CMD write is issued when BUSY = 0, and dropped with CMDOVF when BUSY = 1. -/
def Obligations.IssueLatchesCommand : Prop :=
  ∀ (s : State) (rest : List Turn) (w : Word), s.schedule = mmioWrite s.cfg 0x14 w :: rest →
    (s.status.busy = true → step s = .next { s with schedule := rest, status := { s.status with cmdovf := true } }) ∧
    (s.status.busy = false → step s = .next { s with
      schedule := rest, lcmd := w, cmd := w, lparam0 := s.param0, lparam1 := s.param1, lrngsrc := s.ctrl.rngsrc
      status := { s.status with done := false, err := false, result := false, busy := true }, errcode := none })

/-- R76, R77, R79, R80: the writes of the host buffer port with BUSY = 0. -/
def Obligations.BufferPortWrites : Prop :=
  ∀ (s : State) (rest : List Turn) (v : Word), s.status.busy = false →
    (s.schedule = mmioWrite s.cfg 0x20 v :: rest →
      step s = .next { s with schedule := rest, sel := Fin.ofNat 32 v.toNat, osptr := 0 }) ∧
    (s.schedule = mmioWrite s.cfg 0x24 v :: rest →
      (v.toNat % 2 ^ 31 ≤ s.cfg.osMaxLen → step s = .next { s with
        schedule := rest, osRegs := s.osRegs.set s.sel (some (List.replicate (v.toNat % 2 ^ 31) 0)), osptr := 0 }) ∧
      (s.cfg.osMaxLen < v.toNat % 2 ^ 31 →
        step s = .next { s with schedule := rest, status := { s.status with hosterr := true } })) ∧
    (s.schedule = mmioWrite s.cfg 0x28 v :: rest → step s = .next { s with schedule := rest, osptr := v }) ∧
    (s.schedule = mmioWrite s.cfg 0x2C v :: rest →
      (∀ str, s.os s.sel = some str → s.osptr.toNat < str.length → step s = .next { s with
        schedule := rest, osRegs := s.osRegs.set s.sel (some (str.set s.osptr.toNat (v.setWidth 8)))
        osptr := s.osptr + 1 }) ∧
      ((∀ str, s.os s.sel = some str → str.length ≤ s.osptr.toNat) →
        step s = .next { s with schedule := rest, status := { s.status with hosterr := true } }))

/-- R78, R79, R81: the reads of the host buffer port: OSLEN and OSPTR without a side effect, OSDATA advancing OSPTR, or 0 with HOSTERR
while BUSY = 1, on an invalid register, or past the end. -/
def Obligations.BufferPortReads : Prop :=
  ∀ (s : State) (rest : List Turn),
    (s.schedule = mmioRead s.cfg 0x24 :: rest →
      (∀ str, s.os s.sel = some str → step s = .next { s with
        schedule := rest, readData := some ((1 : Word) <<< 31 ||| BitVec.ofNat 32 str.length) }) ∧
      (s.os s.sel = none → step s = .next { s with schedule := rest, readData := some 0 })) ∧
    (s.schedule = mmioRead s.cfg 0x28 :: rest → step s = .next { s with schedule := rest, readData := some s.osptr }) ∧
    (s.schedule = mmioRead s.cfg 0x2C :: rest →
      (∀ str b, s.status.busy = false → s.os s.sel = some str → str[s.osptr.toNat]? = some b → step s = .next { s with
        schedule := rest, readData := some (b.setWidth 32), osptr := s.osptr + 1 }) ∧
      ((s.status.busy = true ∨ ∀ str, s.os s.sel = some str → str.length ≤ s.osptr.toNat) → step s = .next { s with
        schedule := rest, readData := some 0, status := { s.status with hosterr := true } }))

/-- R109: the host's `load` fills the register: after SEL, OSLEN and one OSDATA write per octet the register holds the string. -/
def Obligations.LoadFillsRegister : Prop :=
  ∀ (s : State) (i : RegIdx) (str : OctetString) (rest : List Turn), s.cfg.ok = true → s.status.busy = false →
    str.length ≤ s.cfg.osMaxLen →
    Host.Core.run Sys2Proof.core (2 + str.length) { s with schedule := hostLoad s.cfg i str ++ rest } =
      .next { s with
        schedule := rest, sel := i, osptr := BitVec.ofNat 32 str.length, osRegs := s.osRegs.set i (some str) }

/-- R83, R446: while BUSY = 1 a host access changes no register file, no latch, no parameter and no outcome: only DONE, CMDOVF, HOSTERR and
what the bus read; a CMD write sets CMDOVF, STATUS is served, and a write to any other offset sets HOSTERR. Where the rules differ it
is the model's reading (log entry 7): for STATUS that of R39, R83 and D10 over R446, for the read-only and reserved offsets that of
R446 and D10 over R49 and R82. -/
def Obligations.BusyDropsHostWrites : Prop :=
  ∀ (s : State) (rest : List Turn), s.status.busy = true →
    (∀ a t, s.schedule = .host a :: rest → step s = .next t →
      t = { s with
        schedule := rest, readData := t.readData
        status := { s.status with done := t.status.done, cmdovf := t.status.cmdovf, hosterr := t.status.hosterr } }) ∧
    (∀ off v, off % 4 = 0 → off ≤ 0xFC → off ≠ 0x0C → off ≠ 0x14 → s.schedule = mmioWrite s.cfg off v :: rest →
      step s = .next { s with schedule := rest, status := { s.status with hosterr := true } }) ∧
    (∀ v, s.schedule = mmioWrite s.cfg 0x14 v :: rest →
      step s = .next { s with schedule := rest, status := { s.status with cmdovf := true } }) ∧
    (∀ v, s.schedule = mmioWrite s.cfg 0x0C v :: rest →
      step s = .next { s with
        schedule := rest
        status := { s.status with
          done := s.status.done && !v.getLsbD 1, cmdovf := s.status.cmdovf && !v.getLsbD 4
          hosterr := s.status.hosterr && !v.getLsbD 5 } })

/-- R38, R39, R42, R43: writes to CTRL, STATUS, PARAM0 and PARAM1 with BUSY = 0, CLRALL among them. -/
def Obligations.ControlRegisterWrites : Prop :=
  ∀ (s : State) (rest : List Turn) (v : Word), s.status.busy = false →
    (s.schedule = mmioWrite s.cfg 0x08 v :: rest →
      (v.getLsbD 2 = false → step s = .next { s with
        schedule := rest, ctrl := { ie := v.getLsbD 0, rngsrc := v.getLsbD 1 } }) ∧
      (v.getLsbD 2 = true → ∃ t, step s = .next t ∧ (∀ r, t.os r = none) ∧ (∀ r, t.n r = none) ∧
        t = { s with
          schedule := rest, ctrl := { ie := v.getLsbD 0, rngsrc := v.getLsbD 1 }, osptr := 0
          osRegs := t.osRegs, nRegs := t.nRegs })) ∧
    (s.schedule = mmioWrite s.cfg 0x0C v :: rest → step s = .next { s with
      schedule := rest
      status := { s.status with
        done := s.status.done && !v.getLsbD 1, cmdovf := s.status.cmdovf && !v.getLsbD 4
        hosterr := s.status.hosterr && !v.getLsbD 5 } }) ∧
    (s.schedule = mmioWrite s.cfg 0x18 v :: rest → step s = .next { s with schedule := rest, param0 := v }) ∧
    (s.schedule = mmioWrite s.cfg 0x1C v :: rest → step s = .next { s with schedule := rest, param1 := v })

/-- R36 to R46, R48, R49, R82: what a read of each register but OSDATA returns, bit by bit, from every state and without a side effect (the
numbers of `errWord` stand in `ErrorsByOpcode`); and a write to ID, CAPS, ERRCODE, CTITER or a reserved offset stores nothing: without
a flag when BUSY = 0, with HOSTERR when BUSY = 1, which is the model's reading of R446 and D10 over R49 and R82 (log entry 7). -/
def Obligations.ReadsAndIgnoredWrites : Prop :=
  ∀ (s : State) (rest : List Turn),
    let reads (off : Nat) (v : Word) : Prop :=
      s.schedule = mmioRead s.cfg off :: rest → step s = .next { s with schedule := rest, readData := some v }
    reads 0x00 0x43524531 ∧
    reads 0x04 (BitVec.ofNat 32 s.cfg.osMaxLen) ∧
    reads 0x08 (BitVec.ofNat 32 (s.ctrl.ie.toNat + 2 * s.ctrl.rngsrc.toNat)) ∧
    reads 0x0C (BitVec.ofNat 32 (s.status.busy.toNat + 2 * s.status.done.toNat + 4 * s.status.err.toNat +
      8 * s.status.result.toNat + 16 * s.status.cmdovf.toNat + 32 * s.status.hosterr.toNat)) ∧
    reads 0x10 (errWord s.errcode) ∧
    reads 0x14 s.cmd ∧
    reads 0x18 s.param0 ∧
    reads 0x1C s.param1 ∧
    reads 0x20 (BitVec.ofNat 32 s.sel.val) ∧
    (∀ str, s.os s.sel = some str → reads 0x24 ((1 : Word) <<< 31 ||| BitVec.ofNat 32 str.length)) ∧
    (s.os s.sel = none → reads 0x24 0) ∧
    reads 0x28 s.osptr ∧
    reads 0x30 s.ctiter ∧
    (∀ off, off % 4 = 0 → 0x34 ≤ off → off ≤ 0xFC → reads off 0) ∧
    (∀ off v, off % 4 = 0 → off ≤ 0xFC → off ∈ [0x00, 0x04, 0x10, 0x30] ∨ 0x34 ≤ off →
      s.schedule = mmioWrite s.cfg off v :: rest →
      step s = .next { s with
        schedule := rest, status := { s.status with hosterr := s.status.hosterr || s.status.busy } })

/-- R53, R413: IRQ = IE ∧ DONE; a completion raises it when IE = 1, the acknowledge, an issue and reset lower it. -/
def Obligations.InterruptLevel : Prop :=
  (∀ s : State, s.irq = (s.ctrl.ie && s.status.done)) ∧
  (∀ (i : Instr) (s t : State), exec i s = .next t → t.irq = s.ctrl.ie) ∧
  (∀ (s t : State) (rest : List Turn),
    (s.schedule = mmioWrite s.cfg 0x0C 2 :: rest ∨
      (s.status.busy = false ∧ ∃ w, s.schedule = mmioWrite s.cfg 0x14 w :: rest) ∨ s.schedule = .reset :: rest) →
    step s = .next t → t.irq = false)

/-! ### Reset and whole-machine rules (spec/70_reset_and_hazards.md, spec/10_state.md) -/

/-- R440, R35: the reset input gives every register its reset value, abandons a command in flight, and the registers then read as the
register map says. That the parameters, the turns to come, the last read and the draw counter stay is the model's choice (log entry 8). -/
def Obligations.HardwareReset : Prop :=
  ∀ (s : State) (rest : List Turn), s.schedule = .reset :: rest →
    ∃ t, step s = .next t ∧ (∀ r, t.os r = none) ∧ (∀ r, t.n r = none) ∧
      t.status = ⟨false, false, false, false, false, false⟩ ∧ t.ctrl = ⟨false, false⟩ ∧ t.errcode = none ∧
      t.cmd = 0 ∧ t.param0 = 0 ∧ t.param1 = 0 ∧ t.sel = 0 ∧ t.osptr = 0 ∧ t.ctiter = 0 ∧
      t.lcmd = 0 ∧ t.lparam0 = 0 ∧ t.lparam1 = 0 ∧ t.lrngsrc = false ∧ t.irq = false ∧
      t.cfg = s.cfg ∧ t.schedule = rest ∧ t.readData = s.readData ∧ t.drawCount = s.drawCount ∧
      t.readReg .id = (0x43524531, t) ∧ t.readReg .caps = (BitVec.ofNat 32 s.cfg.osMaxLen, t) ∧
      (∀ r ∈ [MmioReg.ctrl, .status, .errcode, .cmd, .param0, .param1, .sel, .oslen, .osptr, .ctiter, .reserved],
        t.readReg r = (0, t))

/-- R441: after reset the device is idle and no register is valid; and while no register is valid every word issued fails: not
well-formed with ILLEGAL_CMD, with ALG = 7 with UNSUPPORTED_ALG, every other command with INVALID_OPERAND. -/
def Obligations.CommandBeforeOperands : Prop :=
  (∀ c : Config, (State.resetWith c).status.busy = false ∧
    (∀ r, (State.resetWith c).os r = none) ∧ (∀ r, (State.resetWith c).n r = none)) ∧
  ∀ (s : State) (w : Word), (∀ r, s.os r = none) → (∀ r, s.n r = none) →
    step (s.withFetchWord 32 w.toNat) = .next (errored (s.acceptCommand w) (match decode w with
      | none => .illegalCmd
      | some i => if algOf i = some none then .unsupportedAlg else .invalidOperand))

/-- R33: a valid bit becomes 0 only at reset or by CLRALL, and becomes 1 only by a host OSLEN write (OS registers) or by a command that
writes the register. -/
def Obligations.ValidBitsChangeOnly : Prop :=
  ∀ (s t : State) (r : RegIdx), step s = .next t →
    let cleared := s.schedule.head? = some .reset ∨
      ∃ v : Word, s.schedule.head? = some (mmioWrite s.cfg 0x08 v) ∧ v.getLsbD 2 = true ∧ s.status.busy = false
    ((s.os r).isSome → t.os r = none → cleared) ∧
    ((s.n r).isSome → t.n r = none → cleared) ∧
    (s.os r = none → (t.os r).isSome →
      (s.sel = r ∧ s.status.busy = false ∧ ∃ v : Word, s.schedule.head? = some (mmioWrite s.cfg 0x24 v)) ∨
      (engineNext s ∧ s.status.busy = true ∧ t.errcode = s.errcode ∧ ∃ i, decode s.lcmd = some i ∧ destOS i = some r)) ∧
    (s.n r = none → (t.n r).isSome →
      engineNext s ∧ s.status.busy = true ∧ t.errcode = s.errcode ∧ ∃ i, decode s.lcmd = some i ∧ destN i = some r)
end

