-- ==== Sys2Proof/Laws/Encode.lean ====
section
/-! SUPPORT. The fields of a packed command word (spec/30_encoding.md R101), one lemma per field. -/

namespace Sys2Proof

theorem regBits_getLsbD (r : RegIdx) (lo i : Nat) :
    (regBits r lo).getLsbD i = (decide (i < 32) && decide (lo ≤ i) && (BitVec.ofFin (w := 5) r).getLsbD (i - lo)) := by
  unfold regBits
  simp only [BitVec.getLsbD_shiftLeft, BitVec.getLsbD_setWidth]
  by_cases h1 : i < 32
  · have h3 : i - lo < 32 := by omega
    by_cases h2 : lo ≤ i
    · have h4 : ¬ i < lo := by omega
      simp [h1, h2, h3, h4]
    · have h4 : i < lo := by omega
      simp [h2, h4]
  · simp [h1]

variable (op : BitVec 6) (alg : BitVec 3) (rd rs1 rs2 rs3 : RegIdx)

theorem pack_getLsbD (i : Nat) (h : i < 32) :
    (pack op alg rd rs1 rs2 rs3).getLsbD i =
      (op.getLsbD i || decide (6 ≤ i) && alg.getLsbD (i - 6)
        || decide (9 ≤ i) && (BitVec.ofFin (w := 5) rd).getLsbD (i - 9)
        || decide (14 ≤ i) && (BitVec.ofFin (w := 5) rs1).getLsbD (i - 14)
        || decide (19 ≤ i) && (BitVec.ofFin (w := 5) rs2).getLsbD (i - 19)
        || decide (24 ≤ i) && (BitVec.ofFin (w := 5) rs3).getLsbD (i - 24)) := by
  have h6 : i - 6 < 32 := by omega
  simp only [pack, BitVec.getLsbD_or, regBits_getLsbD, BitVec.getLsbD_shiftLeft, BitVec.getLsbD_setWidth, h, h6,
    decide_true, Bool.true_and]
  by_cases h2 : 6 ≤ i
  · have h3 : ¬ i < 6 := by omega
    simp [h2, h3]
  · have h3 : i < 6 := by omega
    simp [h2, h3]

@[simp] theorem pack_op : (pack op alg rd rs1 rs2 rs3).extractLsb' 0 6 = op := by
  apply BitVec.eq_of_getLsbD_eq
  intro i hi
  have h0 : 0 + i < 32 := by omega
  simp only [BitVec.getLsbD_extractLsb', hi, decide_true, Bool.true_and, pack_getLsbD _ _ _ _ _ _ _ h0]
  have e1 : ¬ 6 ≤ i := by omega
  have e2 : ¬ 9 ≤ i := by omega
  have e3 : ¬ 14 ≤ i := by omega
  have e4 : ¬ 19 ≤ i := by omega
  have e5 : ¬ 24 ≤ i := by omega
  simp [e1, e2, e3, e4, e5]

@[simp] theorem pack_alg : (pack op alg rd rs1 rs2 rs3).extractLsb' 6 3 = alg := by
  apply BitVec.eq_of_getLsbD_eq
  intro i hi
  have h0 : 6 + i < 32 := by omega
  simp only [BitVec.getLsbD_extractLsb', hi, decide_true, Bool.true_and, pack_getLsbD _ _ _ _ _ _ _ h0]
  have e2 : ¬ 9 ≤ 6 + i := by omega
  have e3 : ¬ 14 ≤ 6 + i := by omega
  have e4 : ¬ 19 ≤ 6 + i := by omega
  have e5 : ¬ 24 ≤ 6 + i := by omega
  simp [e2, e3, e4, e5]

/-- A register field beyond which the higher fields start too late to reach. -/
theorem ofFin_getLsbD_ge (r : RegIdx) {i : Nat} (h : 5 ≤ i) : (BitVec.ofFin (w := 5) r).getLsbD i = false :=
  BitVec.getLsbD_of_ge _ _ h

@[simp] theorem pack_rd : regField (pack op alg rd rs1 rs2 rs3) 9 = rd := by
  have h : (pack op alg rd rs1 rs2 rs3).extractLsb' 9 5 = BitVec.ofFin (w := 5) rd := by
    apply BitVec.eq_of_getLsbD_eq
    intro i hi
    have h0 : 9 + i < 32 := by omega
    simp only [BitVec.getLsbD_extractLsb', hi, decide_true, Bool.true_and, pack_getLsbD _ _ _ _ _ _ _ h0]
    rw [BitVec.getLsbD_of_ge op _ (by omega), BitVec.getLsbD_of_ge alg _ (by omega)]
    have e3 : ¬ 14 ≤ 9 + i := by omega
    have e4 : ¬ 19 ≤ 9 + i := by omega
    have e5 : ¬ 24 ≤ 9 + i := by omega
    simp [e3, e4, e5]
  simp [regField, h]

@[simp] theorem pack_rs1 : regField (pack op alg rd rs1 rs2 rs3) 14 = rs1 := by
  have h : (pack op alg rd rs1 rs2 rs3).extractLsb' 14 5 = BitVec.ofFin (w := 5) rs1 := by
    apply BitVec.eq_of_getLsbD_eq
    intro i hi
    have h0 : 14 + i < 32 := by omega
    simp only [BitVec.getLsbD_extractLsb', hi, decide_true, Bool.true_and, pack_getLsbD _ _ _ _ _ _ _ h0]
    rw [BitVec.getLsbD_of_ge op _ (by omega), BitVec.getLsbD_of_ge alg _ (by omega), ofFin_getLsbD_ge rd (by omega)]
    have e4 : ¬ 19 ≤ 14 + i := by omega
    have e5 : ¬ 24 ≤ 14 + i := by omega
    simp [e4, e5]
  simp [regField, h]

@[simp] theorem pack_rs2 : regField (pack op alg rd rs1 rs2 rs3) 19 = rs2 := by
  have h : (pack op alg rd rs1 rs2 rs3).extractLsb' 19 5 = BitVec.ofFin (w := 5) rs2 := by
    apply BitVec.eq_of_getLsbD_eq
    intro i hi
    have h0 : 19 + i < 32 := by omega
    simp only [BitVec.getLsbD_extractLsb', hi, decide_true, Bool.true_and, pack_getLsbD _ _ _ _ _ _ _ h0]
    rw [BitVec.getLsbD_of_ge op _ (by omega), BitVec.getLsbD_of_ge alg _ (by omega), ofFin_getLsbD_ge rd (by omega),
      ofFin_getLsbD_ge rs1 (by omega)]
    have e5 : ¬ 24 ≤ 19 + i := by omega
    simp [e5]
  simp [regField, h]

@[simp] theorem pack_rs3 : regField (pack op alg rd rs1 rs2 rs3) 24 = rs3 := by
  have h : (pack op alg rd rs1 rs2 rs3).extractLsb' 24 5 = BitVec.ofFin (w := 5) rs3 := by
    apply BitVec.eq_of_getLsbD_eq
    intro i hi
    have h0 : 24 + i < 32 := by omega
    simp only [BitVec.getLsbD_extractLsb', hi, decide_true, Bool.true_and, pack_getLsbD _ _ _ _ _ _ _ h0]
    rw [BitVec.getLsbD_of_ge op _ (by omega), BitVec.getLsbD_of_ge alg _ (by omega), ofFin_getLsbD_ge rd (by omega),
      ofFin_getLsbD_ge rs1 (by omega), ofFin_getLsbD_ge rs2 (by omega)]
    simp
  simp [regField, h]

@[simp] theorem pack_rsv : (pack op alg rd rs1 rs2 rs3).extractLsb' 29 3 = 0 := by
  apply BitVec.eq_of_getLsbD_eq
  intro i hi
  have h0 : 29 + i < 32 := by omega
  simp only [BitVec.getLsbD_extractLsb', hi, decide_true, Bool.true_and, pack_getLsbD _ _ _ _ _ _ _ h0]
  rw [BitVec.getLsbD_of_ge op _ (by omega), BitVec.getLsbD_of_ge alg _ (by omega), ofFin_getLsbD_ge rd (by omega),
    ofFin_getLsbD_ge rs1 (by omega), ofFin_getLsbD_ge rs2 (by omega), ofFin_getLsbD_ge rs3 (by omega)]
  simp

/-- The number of a register field is the register's number. -/
theorem regField_val (w : Word) (lo : Nat) : (regField w lo).val = (w.extractLsb' lo 5).toNat := rfl

/-- The fields of a packed word, all seven. -/
theorem ofWord_pack : CmdFields.ofWord (pack op alg rd rs1 rs2 rs3) =
    { op := op.toNat, alg := alg.toNat, rd := rd.val, rs1 := rs1.val, rs2 := rs2.val, rs3 := rs3.val, rsv := 0 } := by
  rw [CmdFields.ofWord, pack_op, pack_alg, ← regField_val, ← regField_val, ← regField_val, ← regField_val,
    pack_rd, pack_rs1, pack_rs2, pack_rs3, pack_rsv]
  rfl

theorem algOfCode_codeOfAlg (a : AlgSel) : algOfCode (codeOfAlg a) = a := by
  rcases a with _ | a
  · rfl
  · cases a <;> rfl

theorem codeOfAlg_lt (a : AlgSel) : (codeOfAlg a).toNat < 8 := (codeOfAlg a).isLt

end Sys2Proof
end

