-- ==== Sys2Proof/Laws/State.lean ====
section
/-! SUPPORT. One lemma per field per update, true by rfl, so that no later proof unfolds an update of State. -/

namespace Sys2Proof.Machine

/-! ### setOS -/

@[simp] theorem setOS_cfg (s : State) (i : RegIdx) (v : OctetString) : (s.setOS i v).cfg = s.cfg := rfl
@[simp] theorem setOS_osRegs (s : State) (i : RegIdx) (v : OctetString) : (s.setOS i v).osRegs = s.osRegs.set i (some v) := rfl
@[simp] theorem setOS_nRegs (s : State) (i : RegIdx) (v : OctetString) : (s.setOS i v).nRegs = s.nRegs := rfl
@[simp] theorem setOS_ctrl (s : State) (i : RegIdx) (v : OctetString) : (s.setOS i v).ctrl = s.ctrl := rfl
@[simp] theorem setOS_status (s : State) (i : RegIdx) (v : OctetString) : (s.setOS i v).status = s.status := rfl
@[simp] theorem setOS_errcode (s : State) (i : RegIdx) (v : OctetString) : (s.setOS i v).errcode = s.errcode := rfl
@[simp] theorem setOS_cmd (s : State) (i : RegIdx) (v : OctetString) : (s.setOS i v).cmd = s.cmd := rfl
@[simp] theorem setOS_param0 (s : State) (i : RegIdx) (v : OctetString) : (s.setOS i v).param0 = s.param0 := rfl
@[simp] theorem setOS_param1 (s : State) (i : RegIdx) (v : OctetString) : (s.setOS i v).param1 = s.param1 := rfl
@[simp] theorem setOS_sel (s : State) (i : RegIdx) (v : OctetString) : (s.setOS i v).sel = s.sel := rfl
@[simp] theorem setOS_osptr (s : State) (i : RegIdx) (v : OctetString) : (s.setOS i v).osptr = s.osptr := rfl
@[simp] theorem setOS_ctiter (s : State) (i : RegIdx) (v : OctetString) : (s.setOS i v).ctiter = s.ctiter := rfl
@[simp] theorem setOS_lcmd (s : State) (i : RegIdx) (v : OctetString) : (s.setOS i v).lcmd = s.lcmd := rfl
@[simp] theorem setOS_lparam0 (s : State) (i : RegIdx) (v : OctetString) : (s.setOS i v).lparam0 = s.lparam0 := rfl
@[simp] theorem setOS_lparam1 (s : State) (i : RegIdx) (v : OctetString) : (s.setOS i v).lparam1 = s.lparam1 := rfl
@[simp] theorem setOS_lrngsrc (s : State) (i : RegIdx) (v : OctetString) : (s.setOS i v).lrngsrc = s.lrngsrc := rfl
@[simp] theorem setOS_schedule (s : State) (i : RegIdx) (v : OctetString) : (s.setOS i v).schedule = s.schedule := rfl
@[simp] theorem setOS_readData (s : State) (i : RegIdx) (v : OctetString) : (s.setOS i v).readData = s.readData := rfl
@[simp] theorem setOS_drawCount (s : State) (i : RegIdx) (v : OctetString) : (s.setOS i v).drawCount = s.drawCount := rfl

/-! ### setN -/

@[simp] theorem setN_cfg (s : State) (i : RegIdx) (v : Nat) : (s.setN i v).cfg = s.cfg := rfl
@[simp] theorem setN_osRegs (s : State) (i : RegIdx) (v : Nat) : (s.setN i v).osRegs = s.osRegs := rfl
@[simp] theorem setN_nRegs (s : State) (i : RegIdx) (v : Nat) : (s.setN i v).nRegs = s.nRegs.set i (some v) := rfl
@[simp] theorem setN_ctrl (s : State) (i : RegIdx) (v : Nat) : (s.setN i v).ctrl = s.ctrl := rfl
@[simp] theorem setN_status (s : State) (i : RegIdx) (v : Nat) : (s.setN i v).status = s.status := rfl
@[simp] theorem setN_errcode (s : State) (i : RegIdx) (v : Nat) : (s.setN i v).errcode = s.errcode := rfl
@[simp] theorem setN_cmd (s : State) (i : RegIdx) (v : Nat) : (s.setN i v).cmd = s.cmd := rfl
@[simp] theorem setN_param0 (s : State) (i : RegIdx) (v : Nat) : (s.setN i v).param0 = s.param0 := rfl
@[simp] theorem setN_param1 (s : State) (i : RegIdx) (v : Nat) : (s.setN i v).param1 = s.param1 := rfl
@[simp] theorem setN_sel (s : State) (i : RegIdx) (v : Nat) : (s.setN i v).sel = s.sel := rfl
@[simp] theorem setN_osptr (s : State) (i : RegIdx) (v : Nat) : (s.setN i v).osptr = s.osptr := rfl
@[simp] theorem setN_ctiter (s : State) (i : RegIdx) (v : Nat) : (s.setN i v).ctiter = s.ctiter := rfl
@[simp] theorem setN_lcmd (s : State) (i : RegIdx) (v : Nat) : (s.setN i v).lcmd = s.lcmd := rfl
@[simp] theorem setN_lparam0 (s : State) (i : RegIdx) (v : Nat) : (s.setN i v).lparam0 = s.lparam0 := rfl
@[simp] theorem setN_lparam1 (s : State) (i : RegIdx) (v : Nat) : (s.setN i v).lparam1 = s.lparam1 := rfl
@[simp] theorem setN_lrngsrc (s : State) (i : RegIdx) (v : Nat) : (s.setN i v).lrngsrc = s.lrngsrc := rfl
@[simp] theorem setN_schedule (s : State) (i : RegIdx) (v : Nat) : (s.setN i v).schedule = s.schedule := rfl
@[simp] theorem setN_readData (s : State) (i : RegIdx) (v : Nat) : (s.setN i v).readData = s.readData := rfl
@[simp] theorem setN_drawCount (s : State) (i : RegIdx) (v : Nat) : (s.setN i v).drawCount = s.drawCount := rfl

/-! ### clearAll -/

@[simp] theorem clearAll_cfg (s : State) : (s.clearAll).cfg = s.cfg := rfl
@[simp] theorem clearAll_osRegs (s : State) : (s.clearAll).osRegs = Vector.replicate 32 none := rfl
@[simp] theorem clearAll_nRegs (s : State) : (s.clearAll).nRegs = Vector.replicate 32 none := rfl
@[simp] theorem clearAll_ctrl (s : State) : (s.clearAll).ctrl = s.ctrl := rfl
@[simp] theorem clearAll_status (s : State) : (s.clearAll).status = s.status := rfl
@[simp] theorem clearAll_errcode (s : State) : (s.clearAll).errcode = s.errcode := rfl
@[simp] theorem clearAll_cmd (s : State) : (s.clearAll).cmd = s.cmd := rfl
@[simp] theorem clearAll_param0 (s : State) : (s.clearAll).param0 = s.param0 := rfl
@[simp] theorem clearAll_param1 (s : State) : (s.clearAll).param1 = s.param1 := rfl
@[simp] theorem clearAll_sel (s : State) : (s.clearAll).sel = s.sel := rfl
@[simp] theorem clearAll_osptr (s : State) : (s.clearAll).osptr = 0 := rfl
@[simp] theorem clearAll_ctiter (s : State) : (s.clearAll).ctiter = s.ctiter := rfl
@[simp] theorem clearAll_lcmd (s : State) : (s.clearAll).lcmd = s.lcmd := rfl
@[simp] theorem clearAll_lparam0 (s : State) : (s.clearAll).lparam0 = s.lparam0 := rfl
@[simp] theorem clearAll_lparam1 (s : State) : (s.clearAll).lparam1 = s.lparam1 := rfl
@[simp] theorem clearAll_lrngsrc (s : State) : (s.clearAll).lrngsrc = s.lrngsrc := rfl
@[simp] theorem clearAll_schedule (s : State) : (s.clearAll).schedule = s.schedule := rfl
@[simp] theorem clearAll_readData (s : State) : (s.clearAll).readData = s.readData := rfl
@[simp] theorem clearAll_drawCount (s : State) : (s.clearAll).drawCount = s.drawCount := rfl

/-! ### acceptCommand -/

@[simp] theorem acceptCommand_cfg (s : State) (w : Word) : (s.acceptCommand w).cfg = s.cfg := rfl
@[simp] theorem acceptCommand_osRegs (s : State) (w : Word) : (s.acceptCommand w).osRegs = s.osRegs := rfl
@[simp] theorem acceptCommand_nRegs (s : State) (w : Word) : (s.acceptCommand w).nRegs = s.nRegs := rfl
@[simp] theorem acceptCommand_ctrl (s : State) (w : Word) : (s.acceptCommand w).ctrl = s.ctrl := rfl
@[simp] theorem acceptCommand_status (s : State) (w : Word) : (s.acceptCommand w).status = s.status.issued := rfl
@[simp] theorem acceptCommand_errcode (s : State) (w : Word) : (s.acceptCommand w).errcode = none := rfl
@[simp] theorem acceptCommand_cmd (s : State) (w : Word) : (s.acceptCommand w).cmd = w := rfl
@[simp] theorem acceptCommand_param0 (s : State) (w : Word) : (s.acceptCommand w).param0 = s.param0 := rfl
@[simp] theorem acceptCommand_param1 (s : State) (w : Word) : (s.acceptCommand w).param1 = s.param1 := rfl
@[simp] theorem acceptCommand_sel (s : State) (w : Word) : (s.acceptCommand w).sel = s.sel := rfl
@[simp] theorem acceptCommand_osptr (s : State) (w : Word) : (s.acceptCommand w).osptr = s.osptr := rfl
@[simp] theorem acceptCommand_ctiter (s : State) (w : Word) : (s.acceptCommand w).ctiter = s.ctiter := rfl
@[simp] theorem acceptCommand_lcmd (s : State) (w : Word) : (s.acceptCommand w).lcmd = w := rfl
@[simp] theorem acceptCommand_lparam0 (s : State) (w : Word) : (s.acceptCommand w).lparam0 = s.param0 := rfl
@[simp] theorem acceptCommand_lparam1 (s : State) (w : Word) : (s.acceptCommand w).lparam1 = s.param1 := rfl
@[simp] theorem acceptCommand_lrngsrc (s : State) (w : Word) : (s.acceptCommand w).lrngsrc = s.ctrl.rngsrc := rfl
@[simp] theorem acceptCommand_schedule (s : State) (w : Word) : (s.acceptCommand w).schedule = s.schedule := rfl
@[simp] theorem acceptCommand_readData (s : State) (w : Word) : (s.acceptCommand w).readData = s.readData := rfl
@[simp] theorem acceptCommand_drawCount (s : State) (w : Word) : (s.acceptCommand w).drawCount = s.drawCount := rfl

/-! ### takeError -/

@[simp] theorem takeError_cfg (s : State) (c : ErrCode) : (s.takeError c).cfg = s.cfg := rfl
@[simp] theorem takeError_osRegs (s : State) (c : ErrCode) : (s.takeError c).osRegs = s.osRegs := rfl
@[simp] theorem takeError_nRegs (s : State) (c : ErrCode) : (s.takeError c).nRegs = s.nRegs := rfl
@[simp] theorem takeError_ctrl (s : State) (c : ErrCode) : (s.takeError c).ctrl = s.ctrl := rfl
@[simp] theorem takeError_status (s : State) (c : ErrCode) : (s.takeError c).status = s.status.completedErr := rfl
@[simp] theorem takeError_errcode (s : State) (c : ErrCode) : (s.takeError c).errcode = some c := rfl
@[simp] theorem takeError_cmd (s : State) (c : ErrCode) : (s.takeError c).cmd = s.cmd := rfl
@[simp] theorem takeError_param0 (s : State) (c : ErrCode) : (s.takeError c).param0 = s.param0 := rfl
@[simp] theorem takeError_param1 (s : State) (c : ErrCode) : (s.takeError c).param1 = s.param1 := rfl
@[simp] theorem takeError_sel (s : State) (c : ErrCode) : (s.takeError c).sel = s.sel := rfl
@[simp] theorem takeError_osptr (s : State) (c : ErrCode) : (s.takeError c).osptr = s.osptr := rfl
@[simp] theorem takeError_ctiter (s : State) (c : ErrCode) : (s.takeError c).ctiter = s.ctiter := rfl
@[simp] theorem takeError_lcmd (s : State) (c : ErrCode) : (s.takeError c).lcmd = s.lcmd := rfl
@[simp] theorem takeError_lparam0 (s : State) (c : ErrCode) : (s.takeError c).lparam0 = s.lparam0 := rfl
@[simp] theorem takeError_lparam1 (s : State) (c : ErrCode) : (s.takeError c).lparam1 = s.lparam1 := rfl
@[simp] theorem takeError_lrngsrc (s : State) (c : ErrCode) : (s.takeError c).lrngsrc = s.lrngsrc := rfl
@[simp] theorem takeError_schedule (s : State) (c : ErrCode) : (s.takeError c).schedule = s.schedule := rfl
@[simp] theorem takeError_readData (s : State) (c : ErrCode) : (s.takeError c).readData = s.readData := rfl
@[simp] theorem takeError_drawCount (s : State) (c : ErrCode) : (s.takeError c).drawCount = s.drawCount := rfl

/-! ### writeStatus -/

@[simp] theorem writeStatus_cfg (s : State) (v : Word) : (s.writeStatus v).cfg = s.cfg := rfl
@[simp] theorem writeStatus_osRegs (s : State) (v : Word) : (s.writeStatus v).osRegs = s.osRegs := rfl
@[simp] theorem writeStatus_nRegs (s : State) (v : Word) : (s.writeStatus v).nRegs = s.nRegs := rfl
@[simp] theorem writeStatus_ctrl (s : State) (v : Word) : (s.writeStatus v).ctrl = s.ctrl := rfl
@[simp] theorem writeStatus_status (s : State) (v : Word) : (s.writeStatus v).status = s.status.writeOneToClear v := rfl
@[simp] theorem writeStatus_errcode (s : State) (v : Word) : (s.writeStatus v).errcode = s.errcode := rfl
@[simp] theorem writeStatus_cmd (s : State) (v : Word) : (s.writeStatus v).cmd = s.cmd := rfl
@[simp] theorem writeStatus_param0 (s : State) (v : Word) : (s.writeStatus v).param0 = s.param0 := rfl
@[simp] theorem writeStatus_param1 (s : State) (v : Word) : (s.writeStatus v).param1 = s.param1 := rfl
@[simp] theorem writeStatus_sel (s : State) (v : Word) : (s.writeStatus v).sel = s.sel := rfl
@[simp] theorem writeStatus_osptr (s : State) (v : Word) : (s.writeStatus v).osptr = s.osptr := rfl
@[simp] theorem writeStatus_ctiter (s : State) (v : Word) : (s.writeStatus v).ctiter = s.ctiter := rfl
@[simp] theorem writeStatus_lcmd (s : State) (v : Word) : (s.writeStatus v).lcmd = s.lcmd := rfl
@[simp] theorem writeStatus_lparam0 (s : State) (v : Word) : (s.writeStatus v).lparam0 = s.lparam0 := rfl
@[simp] theorem writeStatus_lparam1 (s : State) (v : Word) : (s.writeStatus v).lparam1 = s.lparam1 := rfl
@[simp] theorem writeStatus_lrngsrc (s : State) (v : Word) : (s.writeStatus v).lrngsrc = s.lrngsrc := rfl
@[simp] theorem writeStatus_schedule (s : State) (v : Word) : (s.writeStatus v).schedule = s.schedule := rfl
@[simp] theorem writeStatus_readData (s : State) (v : Word) : (s.writeStatus v).readData = s.readData := rfl
@[simp] theorem writeStatus_drawCount (s : State) (v : Word) : (s.writeStatus v).drawCount = s.drawCount := rfl

/-! ### hostError -/

@[simp] theorem hostError_cfg (s : State) : (s.hostError).cfg = s.cfg := rfl
@[simp] theorem hostError_osRegs (s : State) : (s.hostError).osRegs = s.osRegs := rfl
@[simp] theorem hostError_nRegs (s : State) : (s.hostError).nRegs = s.nRegs := rfl
@[simp] theorem hostError_ctrl (s : State) : (s.hostError).ctrl = s.ctrl := rfl
@[simp] theorem hostError_status (s : State) : (s.hostError).status = { s.status with hosterr := true } := rfl
@[simp] theorem hostError_errcode (s : State) : (s.hostError).errcode = s.errcode := rfl
@[simp] theorem hostError_cmd (s : State) : (s.hostError).cmd = s.cmd := rfl
@[simp] theorem hostError_param0 (s : State) : (s.hostError).param0 = s.param0 := rfl
@[simp] theorem hostError_param1 (s : State) : (s.hostError).param1 = s.param1 := rfl
@[simp] theorem hostError_sel (s : State) : (s.hostError).sel = s.sel := rfl
@[simp] theorem hostError_osptr (s : State) : (s.hostError).osptr = s.osptr := rfl
@[simp] theorem hostError_ctiter (s : State) : (s.hostError).ctiter = s.ctiter := rfl
@[simp] theorem hostError_lcmd (s : State) : (s.hostError).lcmd = s.lcmd := rfl
@[simp] theorem hostError_lparam0 (s : State) : (s.hostError).lparam0 = s.lparam0 := rfl
@[simp] theorem hostError_lparam1 (s : State) : (s.hostError).lparam1 = s.lparam1 := rfl
@[simp] theorem hostError_lrngsrc (s : State) : (s.hostError).lrngsrc = s.lrngsrc := rfl
@[simp] theorem hostError_schedule (s : State) : (s.hostError).schedule = s.schedule := rfl
@[simp] theorem hostError_readData (s : State) : (s.hostError).readData = s.readData := rfl
@[simp] theorem hostError_drawCount (s : State) : (s.hostError).drawCount = s.drawCount := rfl

/-! ### commandOverflow -/

@[simp] theorem commandOverflow_cfg (s : State) : (s.commandOverflow).cfg = s.cfg := rfl
@[simp] theorem commandOverflow_osRegs (s : State) : (s.commandOverflow).osRegs = s.osRegs := rfl
@[simp] theorem commandOverflow_nRegs (s : State) : (s.commandOverflow).nRegs = s.nRegs := rfl
@[simp] theorem commandOverflow_ctrl (s : State) : (s.commandOverflow).ctrl = s.ctrl := rfl
@[simp] theorem commandOverflow_status (s : State) : (s.commandOverflow).status = { s.status with cmdovf := true } := rfl
@[simp] theorem commandOverflow_errcode (s : State) : (s.commandOverflow).errcode = s.errcode := rfl
@[simp] theorem commandOverflow_cmd (s : State) : (s.commandOverflow).cmd = s.cmd := rfl
@[simp] theorem commandOverflow_param0 (s : State) : (s.commandOverflow).param0 = s.param0 := rfl
@[simp] theorem commandOverflow_param1 (s : State) : (s.commandOverflow).param1 = s.param1 := rfl
@[simp] theorem commandOverflow_sel (s : State) : (s.commandOverflow).sel = s.sel := rfl
@[simp] theorem commandOverflow_osptr (s : State) : (s.commandOverflow).osptr = s.osptr := rfl
@[simp] theorem commandOverflow_ctiter (s : State) : (s.commandOverflow).ctiter = s.ctiter := rfl
@[simp] theorem commandOverflow_lcmd (s : State) : (s.commandOverflow).lcmd = s.lcmd := rfl
@[simp] theorem commandOverflow_lparam0 (s : State) : (s.commandOverflow).lparam0 = s.lparam0 := rfl
@[simp] theorem commandOverflow_lparam1 (s : State) : (s.commandOverflow).lparam1 = s.lparam1 := rfl
@[simp] theorem commandOverflow_lrngsrc (s : State) : (s.commandOverflow).lrngsrc = s.lrngsrc := rfl
@[simp] theorem commandOverflow_schedule (s : State) : (s.commandOverflow).schedule = s.schedule := rfl
@[simp] theorem commandOverflow_readData (s : State) : (s.commandOverflow).readData = s.readData := rfl
@[simp] theorem commandOverflow_drawCount (s : State) : (s.commandOverflow).drawCount = s.drawCount := rfl

/-! ### applyWrite -/

@[simp] theorem applyWrite_cfg (s : State) (w : Option RegWrite) : (s.applyWrite w).cfg = s.cfg := by
  rcases w with _ | _ | _ <;> rfl
@[simp] theorem applyWrite_ctrl (s : State) (w : Option RegWrite) : (s.applyWrite w).ctrl = s.ctrl := by
  rcases w with _ | _ | _ <;> rfl
@[simp] theorem applyWrite_status (s : State) (w : Option RegWrite) : (s.applyWrite w).status = s.status := by
  rcases w with _ | _ | _ <;> rfl
@[simp] theorem applyWrite_errcode (s : State) (w : Option RegWrite) : (s.applyWrite w).errcode = s.errcode := by
  rcases w with _ | _ | _ <;> rfl
@[simp] theorem applyWrite_cmd (s : State) (w : Option RegWrite) : (s.applyWrite w).cmd = s.cmd := by
  rcases w with _ | _ | _ <;> rfl
@[simp] theorem applyWrite_param0 (s : State) (w : Option RegWrite) : (s.applyWrite w).param0 = s.param0 := by
  rcases w with _ | _ | _ <;> rfl
@[simp] theorem applyWrite_param1 (s : State) (w : Option RegWrite) : (s.applyWrite w).param1 = s.param1 := by
  rcases w with _ | _ | _ <;> rfl
@[simp] theorem applyWrite_sel (s : State) (w : Option RegWrite) : (s.applyWrite w).sel = s.sel := by
  rcases w with _ | _ | _ <;> rfl
@[simp] theorem applyWrite_osptr (s : State) (w : Option RegWrite) : (s.applyWrite w).osptr = s.osptr := by
  rcases w with _ | _ | _ <;> rfl
@[simp] theorem applyWrite_ctiter (s : State) (w : Option RegWrite) : (s.applyWrite w).ctiter = s.ctiter := by
  rcases w with _ | _ | _ <;> rfl
@[simp] theorem applyWrite_lcmd (s : State) (w : Option RegWrite) : (s.applyWrite w).lcmd = s.lcmd := by
  rcases w with _ | _ | _ <;> rfl
@[simp] theorem applyWrite_lparam0 (s : State) (w : Option RegWrite) : (s.applyWrite w).lparam0 = s.lparam0 := by
  rcases w with _ | _ | _ <;> rfl
@[simp] theorem applyWrite_lparam1 (s : State) (w : Option RegWrite) : (s.applyWrite w).lparam1 = s.lparam1 := by
  rcases w with _ | _ | _ <;> rfl
@[simp] theorem applyWrite_lrngsrc (s : State) (w : Option RegWrite) : (s.applyWrite w).lrngsrc = s.lrngsrc := by
  rcases w with _ | _ | _ <;> rfl
@[simp] theorem applyWrite_schedule (s : State) (w : Option RegWrite) : (s.applyWrite w).schedule = s.schedule := by
  rcases w with _ | _ | _ <;> rfl
@[simp] theorem applyWrite_readData (s : State) (w : Option RegWrite) : (s.applyWrite w).readData = s.readData := by
  rcases w with _ | _ | _ <;> rfl
@[simp] theorem applyWrite_drawCount (s : State) (w : Option RegWrite) : (s.applyWrite w).drawCount = s.drawCount := by
  rcases w with _ | _ | _ <;> rfl

/-! ### completeOk -/

@[simp] theorem completeOk_cfg (s : State) (d : Done) : (s.completeOk d).cfg = s.cfg := by
  simp [State.completeOk]
@[simp] theorem completeOk_osRegs (s : State) (d : Done) : (s.completeOk d).osRegs = (s.applyWrite d.write).osRegs := by
  simp [State.completeOk]
@[simp] theorem completeOk_nRegs (s : State) (d : Done) : (s.completeOk d).nRegs = (s.applyWrite d.write).nRegs := by
  simp [State.completeOk]
@[simp] theorem completeOk_ctrl (s : State) (d : Done) : (s.completeOk d).ctrl = s.ctrl := by
  simp [State.completeOk]
@[simp] theorem completeOk_status (s : State) (d : Done) : (s.completeOk d).status = s.status.completedOk d.result := by
  simp [State.completeOk]
@[simp] theorem completeOk_errcode (s : State) (d : Done) : (s.completeOk d).errcode = s.errcode := by
  simp [State.completeOk]
@[simp] theorem completeOk_cmd (s : State) (d : Done) : (s.completeOk d).cmd = s.cmd := by
  simp [State.completeOk]
@[simp] theorem completeOk_param0 (s : State) (d : Done) : (s.completeOk d).param0 = s.param0 := by
  simp [State.completeOk]
@[simp] theorem completeOk_param1 (s : State) (d : Done) : (s.completeOk d).param1 = s.param1 := by
  simp [State.completeOk]
@[simp] theorem completeOk_sel (s : State) (d : Done) : (s.completeOk d).sel = s.sel := by
  simp [State.completeOk]
@[simp] theorem completeOk_osptr (s : State) (d : Done) : (s.completeOk d).osptr = s.osptr := by
  simp [State.completeOk]
@[simp] theorem completeOk_ctiter (s : State) (d : Done) :
    (s.completeOk d).ctiter = d.iter.elim s.ctiter (BitVec.ofNat 32) := by
  rcases d with ⟨w, r, _ | n, k⟩ <;> simp [State.completeOk]
@[simp] theorem completeOk_lcmd (s : State) (d : Done) : (s.completeOk d).lcmd = s.lcmd := by
  simp [State.completeOk]
@[simp] theorem completeOk_lparam0 (s : State) (d : Done) : (s.completeOk d).lparam0 = s.lparam0 := by
  simp [State.completeOk]
@[simp] theorem completeOk_lparam1 (s : State) (d : Done) : (s.completeOk d).lparam1 = s.lparam1 := by
  simp [State.completeOk]
@[simp] theorem completeOk_lrngsrc (s : State) (d : Done) : (s.completeOk d).lrngsrc = s.lrngsrc := by
  simp [State.completeOk]
@[simp] theorem completeOk_schedule (s : State) (d : Done) : (s.completeOk d).schedule = s.schedule := by
  simp [State.completeOk]
@[simp] theorem completeOk_readData (s : State) (d : Done) : (s.completeOk d).readData = s.readData := by
  simp [State.completeOk]
@[simp] theorem completeOk_drawCount (s : State) (d : Done) : (s.completeOk d).drawCount = s.drawCount + d.draws := by
  simp [State.completeOk]

/-! ### hardReset -/

@[simp] theorem hardReset_cfg (s : State) : s.hardReset.cfg = s.cfg := rfl
@[simp] theorem hardReset_osRegs (s : State) : s.hardReset.osRegs = (State.resetWith s.cfg).osRegs := rfl
@[simp] theorem hardReset_nRegs (s : State) : s.hardReset.nRegs = (State.resetWith s.cfg).nRegs := rfl
@[simp] theorem hardReset_ctrl (s : State) : s.hardReset.ctrl = (State.resetWith s.cfg).ctrl := rfl
@[simp] theorem hardReset_status (s : State) : s.hardReset.status = (State.resetWith s.cfg).status := rfl
@[simp] theorem hardReset_errcode (s : State) : s.hardReset.errcode = (State.resetWith s.cfg).errcode := rfl
@[simp] theorem hardReset_cmd (s : State) : s.hardReset.cmd = (State.resetWith s.cfg).cmd := rfl
@[simp] theorem hardReset_param0 (s : State) : s.hardReset.param0 = (State.resetWith s.cfg).param0 := rfl
@[simp] theorem hardReset_param1 (s : State) : s.hardReset.param1 = (State.resetWith s.cfg).param1 := rfl
@[simp] theorem hardReset_sel (s : State) : s.hardReset.sel = (State.resetWith s.cfg).sel := rfl
@[simp] theorem hardReset_osptr (s : State) : s.hardReset.osptr = (State.resetWith s.cfg).osptr := rfl
@[simp] theorem hardReset_ctiter (s : State) : s.hardReset.ctiter = (State.resetWith s.cfg).ctiter := rfl
@[simp] theorem hardReset_lcmd (s : State) : s.hardReset.lcmd = (State.resetWith s.cfg).lcmd := rfl
@[simp] theorem hardReset_lparam0 (s : State) : s.hardReset.lparam0 = (State.resetWith s.cfg).lparam0 := rfl
@[simp] theorem hardReset_lparam1 (s : State) : s.hardReset.lparam1 = (State.resetWith s.cfg).lparam1 := rfl
@[simp] theorem hardReset_lrngsrc (s : State) : s.hardReset.lrngsrc = (State.resetWith s.cfg).lrngsrc := rfl
@[simp] theorem hardReset_schedule (s : State) : s.hardReset.schedule = s.schedule := rfl
@[simp] theorem hardReset_readData (s : State) : s.hardReset.readData = s.readData := rfl
@[simp] theorem hardReset_drawCount (s : State) : s.hardReset.drawCount = s.drawCount := rfl

/-! ### Status -/

@[simp] theorem issued_busy (f : Status) : f.issued.busy = true := rfl
@[simp] theorem issued_done (f : Status) : f.issued.done = false := rfl
@[simp] theorem issued_err (f : Status) : f.issued.err = false := rfl
@[simp] theorem issued_result (f : Status) : f.issued.result = false := rfl
@[simp] theorem issued_cmdovf (f : Status) : f.issued.cmdovf = f.cmdovf := rfl
@[simp] theorem issued_hosterr (f : Status) : f.issued.hosterr = f.hosterr := rfl
@[simp] theorem completedOk_busy (f : Status) (r : Bool) : (f.completedOk r).busy = false := rfl
@[simp] theorem completedOk_done (f : Status) (r : Bool) : (f.completedOk r).done = true := rfl
@[simp] theorem completedOk_err (f : Status) (r : Bool) : (f.completedOk r).err = f.err := rfl
@[simp] theorem completedOk_result (f : Status) (r : Bool) : (f.completedOk r).result = r := rfl
@[simp] theorem completedOk_cmdovf (f : Status) (r : Bool) : (f.completedOk r).cmdovf = f.cmdovf := rfl
@[simp] theorem completedOk_hosterr (f : Status) (r : Bool) : (f.completedOk r).hosterr = f.hosterr := rfl
@[simp] theorem completedErr_busy (f : Status) : f.completedErr.busy = false := rfl
@[simp] theorem completedErr_done (f : Status) : f.completedErr.done = true := rfl
@[simp] theorem completedErr_err (f : Status) : f.completedErr.err = true := rfl
@[simp] theorem completedErr_result (f : Status) : f.completedErr.result = f.result := rfl
@[simp] theorem completedErr_cmdovf (f : Status) : f.completedErr.cmdovf = f.cmdovf := rfl
@[simp] theorem completedErr_hosterr (f : Status) : f.completedErr.hosterr = f.hosterr := rfl
@[simp] theorem writeOneToClear_busy (f : Status) (v : Word) : (f.writeOneToClear v).busy = f.busy := rfl
@[simp] theorem writeOneToClear_err (f : Status) (v : Word) : (f.writeOneToClear v).err = f.err := rfl
@[simp] theorem writeOneToClear_result (f : Status) (v : Word) : (f.writeOneToClear v).result = f.result := rfl

end Sys2Proof.Machine
end

