-- ==== Sys2Proof/Laws/Ops.lean ====
section
/-! SUPPORT. The shared operations, each with what it can do, said once: reads and writes of the register files, the checked
operands, completion, the conversions and the turn. -/

namespace Sys2Proof.Machine

/-! ### Checked computations -/

@[simp] theorem ok_bind {ε α β : Type} (a : α) (f : α → Except ε β) : (Except.ok a >>= f) = f a := rfl

@[simp] theorem error_bind {ε α β : Type} (c : ε) (f : α → Except ε β) : ((Except.error c : Except ε α) >>= f) = .error c := rfl

theorem bind_eq_ok {ε α β : Type} {x : Except ε α} {f : α → Except ε β} {b : β} :
    (x >>= f) = .ok b ↔ ∃ a, x = .ok a ∧ f a = .ok b := by
  cases x <;> simp

theorem bind_eq_error {ε α β : Type} {x : Except ε α} {f : α → Except ε β} {c : ε} :
    (x >>= f) = .error c ↔ x = .error c ∨ ∃ a, x = .ok a ∧ f a = .error c := by
  cases x <;> simp

theorem needAlg_eq_ok {alg : AlgSel} {a : HashAlg} : needAlg alg = .ok a ↔ alg = some a := by
  cases alg <;> simp [needAlg]

theorem needAlg_eq_error {alg : AlgSel} {c : ErrCode} : needAlg alg = .error c ↔ alg = none ∧ c = .unsupportedAlg := by
  cases alg <;> simp [needAlg, eq_comm]

@[simp] theorem needAlg_some (a : HashAlg) : needAlg (some a) = .ok a := rfl

@[simp] theorem needAlg_none : needAlg none = .error .unsupportedAlg := rfl

theorem readOS_eq_ok {s : State} {i : RegIdx} {v : OctetString} : readOS s i = .ok v ↔ s.os i = some v := by
  unfold readOS; cases s.os i <;> simp

theorem readOS_eq_error {s : State} {i : RegIdx} {c : ErrCode} :
    readOS s i = .error c ↔ s.os i = none ∧ c = .invalidOperand := by
  unfold readOS; cases s.os i <;> simp [eq_comm]

theorem readOS_of_some {s : State} {i : RegIdx} {v : OctetString} (h : s.os i = some v) : readOS s i = .ok v :=
  readOS_eq_ok.2 h

theorem readOS_of_none {s : State} {i : RegIdx} (h : s.os i = none) : readOS s i = .error .invalidOperand :=
  readOS_eq_error.2 ⟨h, rfl⟩

theorem readN_eq_ok {s : State} {i : RegIdx} {v : Nat} : readN s i = .ok v ↔ s.n i = some v := by
  unfold readN; cases s.n i <;> simp

theorem readN_eq_error {s : State} {i : RegIdx} {c : ErrCode} :
    readN s i = .error c ↔ s.n i = none ∧ c = .invalidOperand := by
  unfold readN; cases s.n i <;> simp [eq_comm]

theorem readN_of_some {s : State} {i : RegIdx} {v : Nat} (h : s.n i = some v) : readN s i = .ok v :=
  readN_eq_ok.2 h

theorem readN_of_none {s : State} {i : RegIdx} (h : s.n i = none) : readN s i = .error .invalidOperand :=
  readN_eq_error.2 ⟨h, rfl⟩

theorem need_eq_ok {b : Bool} {c : ErrCode} {u : Unit} : need b c = .ok u ↔ b = true := by
  cases b <;> simp [need]

theorem need_eq_error {b : Bool} {c d : ErrCode} : need b c = .error d ↔ b = false ∧ d = c := by
  cases b <;> simp [need, eq_comm]

@[simp] theorem need_true (c : ErrCode) : need true c = .ok () := rfl

@[simp] theorem need_false (c : ErrCode) : need false c = .error c := rfl

theorem needCapacity_eq_ok {s : State} {n : Nat} {u : Unit} : needCapacity s n = .ok u ↔ n ≤ s.cfg.osMaxLen := by
  unfold needCapacity; split <;> simp <;> omega

theorem needCapacity_eq_error {s : State} {n : Nat} {c : ErrCode} :
    needCapacity s n = .error c ↔ s.cfg.osMaxLen < n ∧ c = .capacity := by
  unfold needCapacity; split <;> simp_all [eq_comm]

theorem needCapacity_of_le {s : State} {n : Nat} (h : n ≤ s.cfg.osMaxLen) : needCapacity s n = .ok () :=
  needCapacity_eq_ok.2 h

theorem needCapacity_of_lt {s : State} {n : Nat} (h : s.cfg.osMaxLen < n) : needCapacity s n = .error .capacity :=
  needCapacity_eq_error.2 ⟨h, rfl⟩

/-- The RS3 source is read only when LRNGSRC = 1. -/
theorem readSource_eq_ok {s : State} {r : RegIdx} {src : Option OctetString} :
    readSource s r = .ok src ↔
      (s.lrngsrc = true ∧ src.isSome ∧ s.os r = src) ∨ (s.lrngsrc = false ∧ src = none) := by
  unfold readSource
  cases s.lrngsrc <;> cases h : s.os r <;> cases src <;> simp

theorem readSource_eq_error {s : State} {r : RegIdx} {c : ErrCode} :
    readSource s r = .error c ↔ s.lrngsrc = true ∧ s.os r = none ∧ c = .invalidOperand := by
  unfold readSource
  cases s.lrngsrc <;> cases h : s.os r <;> simp [eq_comm]

@[simp] theorem draw_length (count n : Nat) : (draw count n).length = n := by simp [draw]

@[simp] theorem drawNonzero_length (count n : Nat) : (drawNonzero count n).length = n := by simp [drawNonzero]

/-- Every octet of `DrawNZ` is one of 0x01..0xFF. -/
theorem drawNonzero_ne_zero {count n : Nat} {b : Byte} (h : b ∈ drawNonzero count n) : b ≠ 0 := by
  simp only [drawNonzero, List.mem_map] at h
  obtain ⟨i, -, rfl⟩ := h
  have := (Config.freeNonzeroIndex (count + i)).isLt
  intro h0
  have := congrArg BitVec.toNat h0
  simp at this
  omega

/-- The octets a random request returns are as many as were asked for. -/
theorem randOctets_length {s : State} {src : Option OctetString} {n : Nat} {v : OctetString}
    (h : randOctets s src n = .ok v) : v.length = n := by
  cases src with
  | none => simp only [randOctets, Except.ok.injEq] at h; simp [← h]
  | some w =>
    simp only [randOctets] at h
    split at h
    · simp at h
    · simp only [Except.ok.injEq] at h; simp [← h]; omega

theorem randOctets_error {s : State} {src : Option OctetString} {n : Nat} {c : ErrCode}
    (h : randOctets s src n = .error c) : c = .randomSource ∧ ∃ v, src = some v ∧ v.length < n := by
  cases src with
  | none => simp [randOctets] at h
  | some w =>
    simp only [randOctets] at h
    split at h
    · simp at h; exact ⟨h.symm, w, rfl, by assumption⟩
    · simp at h

theorem randNonzeroOctets_length {s : State} {src : Option OctetString} {n : Nat} {v : OctetString}
    (h : randNonzeroOctets s src n = .ok v) : v.length = n := by
  cases src with
  | none => simp only [randNonzeroOctets, Except.ok.injEq] at h; simp [← h]
  | some w =>
    simp only [randNonzeroOctets] at h
    split at h
    · simp at h
    · rename_i hc
      simp only [Except.ok.injEq] at h
      simp only [Bool.or_eq_true, decide_eq_true_eq, not_or, not_lt] at hc
      simp [← h]; omega

/-- Every octet a nonzero request returns differs from 0x00. -/
theorem randNonzeroOctets_ne_zero {s : State} {src : Option OctetString} {n : Nat} {v : OctetString}
    (h : randNonzeroOctets s src n = .ok v) : ∀ b ∈ v, b ≠ 0 := by
  cases src with
  | none =>
    simp only [randNonzeroOctets, Except.ok.injEq] at h
    exact fun b hb => drawNonzero_ne_zero (h ▸ hb)
  | some w =>
    simp only [randNonzeroOctets] at h
    split at h
    · simp at h
    · rename_i hc
      simp only [Except.ok.injEq] at h
      simp only [Bool.or_eq_true, not_or, List.any_eq_true, not_exists, not_and] at hc
      intro b hb
      simpa using hc.2 b (h ▸ hb)

theorem randNonzeroOctets_error {s : State} {src : Option OctetString} {n : Nat} {c : ErrCode}
    (h : randNonzeroOctets s src n = .error c) : c = .randomSource := by
  cases src with
  | none => simp [randNonzeroOctets] at h
  | some w =>
    simp only [randNonzeroOctets] at h
    split at h <;> simp at h
    exact h.symm

/-! ### The register files -/

theorem os_eq (s : State) (i : RegIdx) : s.os i = s.osRegs[i] := rfl

theorem n_eq (s : State) (i : RegIdx) : s.n i = s.nRegs[i] := rfl

@[simp] theorem os_setOS_same (s : State) (i : RegIdx) (v : OctetString) : (s.setOS i v).os i = some v := by
  simp [State.os, State.setOS]

theorem os_setOS_ne (s : State) {i j : RegIdx} (v : OctetString) (h : j ≠ i) : (s.setOS i v).os j = s.os j := by
  have : i.val ≠ j.val := fun e => h (Fin.ext e.symm)
  simp [State.os, State.setOS, Vector.getElem_set_ne, this]

theorem os_setOS (s : State) (i j : RegIdx) (v : OctetString) :
    (s.setOS i v).os j = if j = i then some v else s.os j := by
  split
  · subst_vars; simp
  · exact os_setOS_ne s v (by assumption)

@[simp] theorem n_setN_same (s : State) (i : RegIdx) (v : Nat) : (s.setN i v).n i = some v := by
  simp [State.n, State.setN]

theorem n_setN_ne (s : State) {i j : RegIdx} (v : Nat) (h : j ≠ i) : (s.setN i v).n j = s.n j := by
  have : i.val ≠ j.val := fun e => h (Fin.ext e.symm)
  simp [State.n, State.setN, Vector.getElem_set_ne, this]

theorem n_setN (s : State) (i j : RegIdx) (v : Nat) :
    (s.setN i v).n j = if j = i then some v else s.n j := by
  split
  · subst_vars; simp
  · exact n_setN_ne s v (by assumption)

@[simp] theorem n_setOS (s : State) (i j : RegIdx) (v : OctetString) : (s.setOS i v).n j = s.n j := rfl

@[simp] theorem os_setN (s : State) (i j : RegIdx) (v : Nat) : (s.setN i v).os j = s.os j := rfl

@[simp] theorem os_clearAll (s : State) (i : RegIdx) : s.clearAll.os i = none := by
  simp [State.os, State.clearAll]

@[simp] theorem n_clearAll (s : State) (i : RegIdx) : s.clearAll.n i = none := by
  simp [State.n, State.clearAll]

@[simp] theorem os_resetWith (c : Config) (i : RegIdx) : (State.resetWith c).os i = none := by
  simp [State.os, State.resetWith]

@[simp] theorem n_resetWith (c : Config) (i : RegIdx) : (State.resetWith c).n i = none := by
  simp [State.n, State.resetWith]

/-! ### What a run may write -/

theorem doneOS_eq_ok {rd : RegIdx} {v : OctetString} {k : Nat} {d : Done} :
    doneOS rd v k = .ok d ↔ d = { write := some (.os rd v), result := false, iter := none, draws := k } := by
  simp [doneOS, eq_comm]

theorem doneN_eq_ok {s : State} {rd : RegIdx} {v : Nat} {d : Done} :
    doneN s rd v = .ok d ↔
      v < 256 ^ s.cfg.osMaxLen ∧ d = { write := some (.n rd v), result := false, iter := none, draws := 0 } := by
  unfold doneN; split <;> simp_all [eq_comm]

theorem doneN_eq_error {s : State} {rd : RegIdx} {v : Nat} {c : ErrCode} :
    doneN s rd v = .error c ↔ 256 ^ s.cfg.osMaxLen ≤ v ∧ c = .capacity := by
  unfold doneN; split <;> simp_all [eq_comm]

theorem doneN_of_lt {s : State} {rd : RegIdx} {v : Nat} (h : v < 256 ^ s.cfg.osMaxLen) :
    doneN s rd v = .ok { write := some (.n rd v), result := false, iter := none, draws := 0 } :=
  doneN_eq_ok.2 ⟨h, rfl⟩

theorem doneResult_eq_ok {res : Bool} {iter : Option Nat} {d : Done} :
    doneResult res iter = .ok d ↔ d = { write := none, result := res, iter := iter, draws := 0 } := by
  simp [doneResult, eq_comm]

/-! ### Completion -/

@[simp] theorem complete_ok (s : State) (d : Done) : s.complete (.ok d) = s.completeOk d := rfl

@[simp] theorem complete_error (s : State) (c : ErrCode) : s.complete (.error c) = s.takeError c := rfl

@[simp] theorem finish_eq (s : State) (r : RunResult) : finish s r = .next (s.complete r) := rfl

/-- Every completion clears BUSY and sets DONE. -/
@[simp] theorem complete_busy (s : State) (r : RunResult) : (s.complete r).status.busy = false := by
  cases r <;> simp

@[simp] theorem complete_done (s : State) (r : RunResult) : (s.complete r).status.done = true := by
  cases r <;> simp

@[simp] theorem os_takeError (s : State) (c : ErrCode) (i : RegIdx) : (s.takeError c).os i = s.os i := rfl

@[simp] theorem n_takeError (s : State) (c : ErrCode) (i : RegIdx) : (s.takeError c).n i = s.n i := rfl

@[simp] theorem os_completeOk (s : State) (d : Done) (i : RegIdx) :
    (s.completeOk d).os i = (s.applyWrite d.write).os i := by
  rw [os_eq, os_eq, completeOk_osRegs]

@[simp] theorem n_completeOk (s : State) (d : Done) (i : RegIdx) :
    (s.completeOk d).n i = (s.applyWrite d.write).n i := by
  rw [n_eq, n_eq, completeOk_nRegs]

/-! ### Octet strings and integers -/

@[simp] theorem zeros_length (n : Nat) : (zeros n).length = n := by simp [zeros]

@[simp] theorem xorOctets_length (a b : OctetString) : (xorOctets a b).length = min a.length b.length := by
  simp [xorOctets]

@[simp] theorem slice_length (s : OctetString) (i j : Nat) : (slice s i j).length = min (j - i) (s.length - i) := by
  simp [slice]

@[simp] theorem toOctets_length (n x : Nat) : (toOctets n x).length = n := by
  induction n with
  | zero => rfl
  | succ n ih => simp [toOctets, ih]

/-- Octet k of `toOctets n x` (R230). -/
theorem toOctets_getD (n x : Nat) {k : Nat} (h : k < n) : ((toOctets n x).getD k 0).toNat = x / 256 ^ (n - 1 - k) % 256 := by
  induction n generalizing k with
  | zero => omega
  | succ n ih =>
    cases k with
    | zero => simp [toOctets]
    | succ k => simp only [toOctets, List.getD_cons_succ]; rw [ih (by omega)]; congr 3; omega

/-- XOR with the same mask twice gives the string back. -/
theorem xorOctets_cancel (a m : OctetString) (h : a.length ≤ m.length) : xorOctets (xorOctets a m) m = a := by
  induction a generalizing m with
  | nil => simp [xorOctets]
  | cons b bs ih =>
    cases m with
    | nil => simp at h
    | cons c cs =>
      simp only [xorOctets, List.zipWith_cons_cons, List.cons.injEq]
      exact ⟨by rw [BitVec.xor_assoc, BitVec.xor_self, BitVec.xor_zero], ih cs (by simpa using h)⟩

/-- The value of a string lies below 256 to its length (R233). -/
theorem os2ip_lt (s : OctetString) : os2ip s < 256 ^ s.length := by
  induction s with
  | nil => simp [os2ip]
  | cons b bs ih =>
    have hb : b.toNat < 256 := b.isLt
    calc os2ip (b :: bs) = b.toNat * 256 ^ bs.length + os2ip bs := rfl
      _ < b.toNat * 256 ^ bs.length + 256 ^ bs.length := by omega
      _ = (b.toNat + 1) * 256 ^ bs.length := by ring
      _ ≤ 256 * 256 ^ bs.length := Nat.mul_le_mul_right _ hb
      _ = 256 ^ (b :: bs).length := by simp [pow_succ, mul_comm]

/-- The octets of x name x modulo 256 to their number. -/
theorem os2ip_toOctets (n x : Nat) : os2ip (toOctets n x) = x % 256 ^ n := by
  induction n with
  | zero => simp [toOctets, os2ip, Nat.mod_one]
  | succ n ih =>
    simp only [toOctets, os2ip, toOctets_length, ih, BitVec.toNat_ofNat]
    have h : x % 256 ^ (n + 1) = x % 256 ^ n + 256 ^ n * (x / 256 ^ n % 2 ^ 8) := by
      rw [pow_succ 256 n, Nat.mod_mul]; norm_num
    rw [h, Nat.mul_comm, Nat.add_comm]

theorem i2osp_eq_ok {x n : Nat} {v : OctetString} : i2osp x n = .ok v ↔ x < 256 ^ n ∧ v = toOctets n x := by
  unfold i2osp; split <;> simp_all [eq_comm]

theorem i2osp_eq_error {x n : Nat} {c : ErrCode} : i2osp x n = .error c ↔ 256 ^ n ≤ x ∧ c = .encoding := by
  unfold i2osp; split <;> simp_all [eq_comm]

theorem i2osp_of_lt {x n : Nat} (h : x < 256 ^ n) : i2osp x n = .ok (toOctets n x) := i2osp_eq_ok.2 ⟨h, rfl⟩

/-! ### Turns -/

theorem nextTurn_nil {s : State} (h : s.schedule = []) : s.nextTurn = (.engine, s) := by
  simp [State.nextTurn, h]

theorem nextTurn_cons {s : State} {t : Turn} {ts : List Turn} (h : s.schedule = t :: ts) :
    s.nextTurn = (t, { s with schedule := ts }) := by
  simp [State.nextTurn, h]

end Sys2Proof.Machine
end

