-- ==== Sys2Proof/Laws/Hash.lean ====
section
/-! SUPPORT. Lengths, padding, schedules and rounds of the SHA round engine and of the generators built on it (spec/41_hash.md, spec/43_mgf1.md). -/

namespace Sys2Proof.Machine

theorem serialize_length {w : Nat} (ws : List (BitVec w)) : (serialize ws).length = ws.length * (w / 8) := by
  induction ws with
  | nil => simp [serialize]
  | cons x xs ih =>
    simp only [serialize, List.map_cons, List.flatten_cons, List.length_append, toOctets_length, List.length_cons] at *
    rw [ih]; ring

/-- The final state holds at least as many octets as the digest keeps. -/
theorem hLen_le_finalState (a : HashAlg) (m : OctetString) : hLen a ≤ (finalState a m).length := by
  cases a <;> simp [finalState, sha256From, sha512From, serialize_length, Vars5.words, Vars8.words, hLen]

/-- A digest has hLen octets. -/
@[simp] theorem hashOf_length (a : HashAlg) (m : OctetString) : (hashOf a m).length = hLen a := by
  have := hLen_le_finalState a m
  simp [hashOf]; omega

theorem hLen_pos (a : HashAlg) : 0 < hLen a := by cases a <;> simp [hLen]

theorem hLen_le (a : HashAlg) : hLen a ≤ 64 := by cases a <;> simp [hLen]

/-- The padded length is |M| + 1 + z + F. -/
theorem pad_length (bs : Nat) (m : OctetString) :
    (pad bs m).length = m.length + 1 + padZeros bs m.length + lengthField bs := by
  simp [pad]; ring

theorem flatMap_mgf1_length (a : HashAlg) (seed : OctetString) (cs : List Nat) :
    (cs.flatMap (mgf1Block a seed)).length = cs.length * hLen a := by
  induction cs with
  | nil => simp
  | cons c cs ih => simp [List.flatMap_cons, mgf1Block, ih]; ring

/-- ⌈n/d⌉ pieces of d cover n (R11). -/
theorem le_ceilDiv_mul (n : Nat) {d : Nat} (hd : 0 < d) : n ≤ ceilDiv n d * d := by
  have h1 := Nat.div_add_mod (n + d - 1) d
  have h2 := Nat.mod_lt (n + d - 1) hd
  rw [ceilDiv, Nat.mul_comm]
  omega

/-- A mask has exactly maskLen octets (R220). -/
@[simp] theorem mgf1_length (a : HashAlg) (seed : OctetString) (n : Nat) : (mgf1 a seed n).length = n := by
  rw [mgf1, List.length_take, flatMap_mgf1_length, List.length_range]
  exact Nat.min_eq_left (le_ceilDiv_mul n (hLen_pos a))

/-! ### Rotations, schedules, rounds, pieces (R162 to R177) -/

/-- The rotation of R12 is the library's. -/
theorem rotr_eq_rotateRight {w n : Nat} (x : BitVec w) (h : n < w) : rotr n x = x.rotateRight n := by
  simp [rotr, BitVec.rotateRight, BitVec.rotateRightAux, Nat.mod_eq_of_lt h]

theorem rotl_eq_rotateLeft {w n : Nat} (x : BitVec w) (h : n < w) : rotl n x = x.rotateLeft n := by
  rw [rotl, rotr, BitVec.rotateLeft, BitVec.rotateLeftAux, Nat.mod_eq_of_lt h, Nat.sub_sub_self h.le, BitVec.or_comm]

/-- One more extension, seen from its newest word. -/
theorem extendSchedule_succ {w : Nat} (next : List (BitVec w) → BitVec w) (c : Nat) (ws : List (BitVec w)) :
    extendSchedule next (c + 1) ws = next (extendSchedule next c ws) :: extendSchedule next c ws := by
  induction c generalizing ws with
  | zero => rfl
  | succ c ih => rw [extendSchedule, ih, extendSchedule]

/-- One more word at the end of the schedule. -/
theorem schedule_succ {w : Nat} (next : List (BitVec w) → BitVec w) (c : Nat) (b : List (BitVec w)) :
    schedule next (c + 1) b = schedule next c b ++ [next (schedule next c b).reverse] := by
  simp [schedule, extendSchedule_succ]

@[simp] theorem schedule_length {w : Nat} (next : List (BitVec w) → BitVec w) (c : Nat) (b : List (BitVec w)) :
    (schedule next c b).length = b.length + c := by
  induction c with
  | zero => simp [schedule, extendSchedule]
  | succ c ih => rw [schedule_succ]; simp [ih]; omega

/-- W_t = M_t for t below the block's length (R165, R168, R171). -/
theorem schedule_block {w : Nat} (next : List (BitVec w) → BitVec w) (c : Nat) (b : List (BitVec w)) {t : Nat} (h : t < b.length) :
    (schedule next c b).getD t 0 = b.getD t 0 := by
  induction c with
  | zero => simp [schedule, extendSchedule]
  | succ c ih => rw [schedule_succ, List.getD_append _ _ _ _ (by simp; omega), ih]

/-- A longer schedule begins with a shorter one. -/
theorem schedule_prefix {w : Nat} (next : List (BitVec w) → BitVec w) {c k : Nat} (b : List (BitVec w)) {t : Nat} (hk : k ≤ c)
    (h : t < b.length + k) : (schedule next c b).getD t 0 = (schedule next k b).getD t 0 := by
  induction c, hk using Nat.le_induction with
  | base => rfl
  | succ c hkc ih => rw [schedule_succ, List.getD_append _ _ _ _ (by simp; omega), ih]

/-- Every later word is `next` of the schedule before it. -/
theorem schedule_next {w : Nat} (next : List (BitVec w) → BitVec w) {c k : Nat} (b : List (BitVec w)) (h : k < c) :
    (schedule next c b).getD (b.length + k) 0 = next (schedule next k b).reverse := by
  rw [schedule_prefix next b (k := k + 1) h (by omega), schedule_succ,
    List.getD_append_right _ _ _ _ (by simp)]
  simp

/-- The j-th newest word, by its index from the start. -/
theorem schedule_back {w : Nat} (next : List (BitVec w) → BitVec w) {c k j : Nat} (b : List (BitVec w)) (h : k < c)
    (hj : j < b.length + k) :
    (schedule next k b).reverse.getD j 0 = (schedule next c b).getD (b.length + k - 1 - j) 0 := by
  rw [schedule_prefix next b h.le (by omega), List.getD_eq_getElem _ _ (by simpa using hj), List.getElem_reverse,
    List.getD_eq_getElem _ _ (by simp; omega)]
  simp

/-- The last of several SHA-1 rounds (R166). -/
theorem sha1Rounds_append (t : Nat) (ws : List (BitVec 32)) (x : BitVec 32) (v : Vars5 32) :
    sha1Rounds t (ws ++ [x]) v = sha1Round (t + ws.length) x (sha1Rounds t ws v) := by
  induction ws generalizing t v with
  | nil => rfl
  | cons y ys ih => simp only [List.cons_append, sha1Rounds, ih, List.length_cons]; congr 1; omega

/-- The last of several SHA-2 rounds (R169, R172). -/
theorem sha2Rounds_append {w : Nat} (S0 S1 : BitVec w → BitVec w) (ks ws : List (BitVec w)) (hl : ks.length = ws.length)
    (k x : BitVec w) (v : Vars8 w) :
    sha2Rounds S0 S1 (ks ++ [k]) (ws ++ [x]) v = sha2Round S0 S1 k x (sha2Rounds S0 S1 ks ws v) := by
  induction ks generalizing ws v with
  | nil => cases ws with
    | nil => rfl
    | cons _ _ => simp at hl
  | cons y ys ih => cases ws with
    | nil => simp at hl
    | cons z zs => simp only [List.cons_append, sha2Rounds]; exact ih zs (by simpa using hl) _

@[simp] theorem chunks_length (size count : Nat) (s : OctetString) : (chunks size count s).length = count := by
  induction count generalizing s with
  | zero => rfl
  | succ c ih => simp [chunks, ih]

/-- Piece i starts at octet i · size (R162). -/
theorem chunks_getElem? (size count : Nat) (s : OctetString) {i : Nat} (h : i < count) :
    (chunks size count s)[i]? = some ((s.drop (i * size)).take size) := by
  induction count generalizing s i with
  | zero => omega
  | succ c ih =>
    cases i with
    | zero => simp [chunks]
    | succ i =>
      simp only [chunks, List.getElem?_cons_succ]
      rw [ih _ (by omega), List.drop_drop]
      congr 3; ring

/-- Octet k of the written-out state: octet k mod (w/8) of word k / (w/8), big-endian (R177). -/
theorem serialize_getD {w : Nat} (ws : List (BitVec w)) {k : Nat} (hw : 0 < w / 8) (h : k < ws.length * (w / 8)) :
    ((serialize ws).getD k 0).toNat = (ws.getD (k / (w / 8)) 0).toNat / 256 ^ (w / 8 - 1 - k % (w / 8)) % 256 := by
  induction ws generalizing k with
  | nil => simp at h
  | cons x xs ih =>
    have e : serialize (x :: xs) = toOctets (w/8) x.toNat ++ serialize xs := rfl
    rw [e]
    by_cases hk : k < w / 8
    · rw [List.getD_append _ _ _ _ (by simpa using hk), toOctets_getD _ _ hk, Nat.div_eq_of_lt hk, Nat.mod_eq_of_lt hk]; rfl
    · obtain ⟨k', rfl⟩ := Nat.exists_eq_add_of_le (Nat.not_lt.1 hk)
      rw [List.getD_append_right _ _ _ _ (by simp)]
      simp only [toOctets_length, Nat.add_sub_cancel_left]
      rw [ih (by simp only [List.length_cons, Nat.add_mul, Nat.one_mul] at h; omega)]
      rw [Nat.add_div_left _ hw, Nat.add_mod_left]; rfl

end Sys2Proof.Machine
end

