-- ==== Sys2Proof/Laws/Padding.lean ====
section
/-! SUPPORT. Lengths of what the encoders build and the decoders return (spec/46_eme.md, spec/47_emsa.md). -/

namespace Sys2Proof.Machine

theorem oaepEncodeWith_length {a : HashAlg} {m label seed : OctetString} {k : Nat}
    (h : m.length + 2 * hLen a + 2 ≤ k) (hs : seed.length = hLen a) :
    (oaepEncodeWith a m label k seed).length = k := by
  simp [oaepEncodeWith, hs]; omega

theorem eme15EncodeWith_length (m ps : OctetString) : (eme15EncodeWith m ps).length = ps.length + m.length + 3 := by
  simp [eme15EncodeWith]; omega

@[simp] theorem pssClearTop_length (emBits : Nat) (s : OctetString) : (pssClearTop emBits s).length = s.length := by
  cases s <;> simp [pssClearTop]

@[simp] theorem pssHash_length (a : HashAlg) (mHash salt : OctetString) : (pssHash a mHash salt).length = hLen a := by
  simp [pssHash]

theorem pssEncodeWith_length {a : HashAlg} {m salt : OctetString} {emBits : Nat}
    (h : hLen a + salt.length + 2 ≤ pssEmLen emBits) : (pssEncodeWith a m emBits salt).length = pssEmLen emBits := by
  simp [pssEncodeWith]; omega

theorem emsa15EncodeRaw_length {a : HashAlg} {m : OctetString} {emLen : Nat} (h : tLen a + 11 ≤ emLen) :
    (emsa15EncodeRaw a m emLen).length = emLen := by
  have : tLen a = (derPrefix a).length + hLen a := rfl
  simp [emsa15EncodeRaw]; omega

/-- The number of octets DER_a has, as R284's table counts them. -/
theorem derPrefix_length (a : HashAlg) : (derPrefix a).length = if a = .sha1 then 15 else 19 := by
  cases a <;> rfl

@[simp] theorem oaepRecoverDB_length {a : HashAlg} {em : OctetString} {k : Nat} (h : em.length = k) :
    (oaepRecoverDB a em k).length = k - hLen a - 1 := by
  simp [oaepRecoverDB, h]; omega

/-- A decoded message is no longer than the encoded one (R262). -/
theorem oaepDecode_length {a : HashAlg} {em label m : OctetString} {k : Nat} (h : oaepDecode a em label k = .ok m) :
    m.length ≤ em.length := by
  unfold oaepDecode at h
  dsimp only at h
  split at h
  · simp at h
  · rename_i hk
    split at h
    · simp at h
    · split at h
      · simp only [Except.ok.injEq] at h
        subst h
        simp; omega
      · simp at h

/-- A failing OAEP decode fails with DECRYPTION, whichever check failed (R262, R264). -/
theorem oaepDecode_error {a : HashAlg} {em label : OctetString} {k : Nat} {c : ErrCode}
    (h : oaepDecode a em label k = .error c) : c = .decryption := by
  unfold oaepDecode at h
  dsimp only at h
  split at h
  · simpa [eq_comm] using h
  · split at h
    · simpa [eq_comm] using h
    · split at h
      · simp at h
      · simpa [eq_comm] using h

/-- A decoded message is no longer than the encoded one (R267). -/
theorem eme15Decode_length {em m : OctetString} {k : Nat} (h : eme15Decode em k = .ok m) : m.length ≤ em.length := by
  unfold eme15Decode at h
  dsimp only at h
  split at h
  · simp at h
  · split at h
    · simp at h
    · split at h
      · simp at h
      · split at h
        · simp at h
        · simp only [Except.ok.injEq] at h
          subst h
          simp

/-- A failing PKCS#1-v1.5 decode fails with DECRYPTION, whichever check failed (R267, R264). -/
theorem eme15Decode_error {em : OctetString} {k : Nat} {c : ErrCode} (h : eme15Decode em k = .error c) :
    c = .decryption := by
  unfold eme15Decode at h
  dsimp only at h
  split at h
  · simpa [eq_comm] using h
  · split at h
    · simpa [eq_comm] using h
    · split at h
      · simpa [eq_comm] using h
      · split at h
        · simpa [eq_comm] using h
        · simp at h

end Sys2Proof.Machine
end

