-- ==== Sys2Proof/Laws/Rsa.lean ====
section
/-! SUPPORT. The square-and-multiply loop computes b^e mod n (spec/45_rsa.md R240), and the bounds of the CRT step. -/

namespace Sys2Proof.Machine

/-- The loop's value, for an exponent within its fuel. -/
theorem modExpLoop_eq (fuel b e n acc : Nat) (h : e < 2 ^ fuel) :
    modExpLoop fuel b e n acc = acc * b ^ e % n := by
  induction fuel generalizing b e acc with
  | zero =>
    have : e = 0 := by simpa using h
    simp [modExpLoop, this]
  | succ fuel ih =>
    have hlt : e / 2 < 2 ^ fuel := by rw [pow_succ] at h; omega
    rw [modExpLoop, ih _ _ _ hlt]
    have hb : (b * b % n) ^ (e / 2) ≡ b ^ (2 * (e / 2)) [MOD n] := by
      rw [pow_mul, pow_two]
      exact (Nat.mod_modEq _ _).pow _
    split
    · rename_i hodd
      have he : b ^ e = b * b ^ (2 * (e / 2)) := by
        rw [← pow_succ']; congr 1; omega
      calc acc * b % n * (b * b % n) ^ (e / 2) % n
          = acc * b * b ^ (2 * (e / 2)) % n := (Nat.mod_modEq _ _).mul hb
        _ = acc * b ^ e % n := by rw [he, Nat.mul_assoc]
    · rename_i heven
      have he : b ^ e = b ^ (2 * (e / 2)) := by congr 1; omega
      rw [he]
      exact (Nat.ModEq.refl acc).mul hb

/-- `ModExp(b, e, n)` is b^e mod n (R240), for every n, b and e. -/
theorem modExp_eq_pow_mod (b e n : Nat) : modExp b e n = b ^ e % n := by
  rw [modExp, modExpLoop_eq _ _ _ _ _ Nat.lt_log2_self, Nat.one_mul]
  exact (Nat.mod_modEq b n).pow e

theorem modExp_lt (b e : Nat) {n : Nat} (h : 0 < n) : modExp b e n < n := by
  rw [modExp_eq_pow_mod]; exact Nat.mod_lt _ h

/-- The non-negative remainder of R11 lies below its modulus. -/
theorem subMulMod_lt (x y k : Nat) {r : Nat} (h : 0 < r) : subMulMod x y k r < r := by
  have h1 := Int.emod_nonneg (((x : Int) - y) * k) (b := (r : Int)) (by omega)
  have h2 := Int.emod_lt_of_pos (((x : Int) - y) * k) (b := (r : Int)) (by omega)
  unfold subMulMod
  omega

end Sys2Proof.Machine
end

