-- ==== Sys2Proof/Laws/Exec.lean ====
section
/-! SUPPORT. What a command's run can be, said once over all commands: `exec` completes with the outcome of a run, and the run's
write, if any, goes to the command's one destination. Later proofs cite this instead of unfolding the meanings. -/

namespace Sys2Proof.Machine

/-- What an error-free outcome of command `i` in state `s` may hold: a string for its OS destination, an integer within capacity
for its N destination, or no write; a count only from CTEQ; a true RESULT only without a write. -/
def DoneShape (i : Instr) (s : State) (d : Done) : Prop :=
  ((∃ rd v, destOS i = some rd ∧ destN i = none ∧
      d = { write := some (.os rd v), result := false, iter := none, draws := d.draws } ∧
      (s.cfg.ok = true → s.osFit → v.length ≤ s.cfg.osMaxLen)) ∨
   (∃ rd v, destN i = some rd ∧ destOS i = none ∧
      d = { write := some (.n rd v), result := false, iter := none, draws := 0 } ∧ v < 256 ^ s.cfg.osMaxLen) ∨
   (destOS i = none ∧ destN i = none ∧ d.write = none ∧ d.draws = 0)) ∧
  ((∀ r1 r2, i ≠ .cteq r1 r2) → d.iter = none)

theorem osFit_length {s : State} (h : s.osFit) {i : RegIdx} {v : OctetString} (hv : s.os i = some v) :
    v.length ≤ s.cfg.osMaxLen := by
  simpa [hv] using h i

theorem nFit_lt {s : State} (h : s.nFit) {i : RegIdx} {v : Nat} (hv : s.n i = some v) :
    v < 256 ^ s.cfg.osMaxLen := by
  simpa [hv] using h i

theorem cfg_ok_le {c : Config} (h : c.ok = true) : 64 ≤ c.osMaxLen := by
  simp only [Config.ok, Bool.and_eq_true, decide_eq_true_eq] at h
  exact h.1.1.1

/-- A body that ends in `WriteOS` has the shape of its destination. -/
theorem shape_os {i : Instr} {s : State} {rd : RegIdx} {v : OctetString} {k : Nat} {d : Done}
    (h1 : destOS i = some rd) (h2 : destN i = none) (hd : doneOS rd v k = .ok d)
    (hfit : s.cfg.ok = true → s.osFit → v.length ≤ s.cfg.osMaxLen) : DoneShape i s d := by
  rw [doneOS_eq_ok] at hd
  subst hd
  exact ⟨.inl ⟨rd, v, h1, h2, rfl, hfit⟩, fun _ => rfl⟩

/-- A body that ends in `WriteN` has the shape of its destination. -/
theorem shape_n {i : Instr} {s : State} {rd : RegIdx} {v : Nat} {d : Done}
    (h1 : destN i = some rd) (h2 : destOS i = none) (hd : doneN s rd v = .ok d) : DoneShape i s d := by
  rw [doneN_eq_ok] at hd
  obtain ⟨hv, rfl⟩ := hd
  exact ⟨.inr (.inl ⟨rd, v, h1, h2, rfl, hv⟩), fun _ => rfl⟩

theorem expPrimitive_ok {s : State} {rd rs1 rs2 rs3 : RegIdx} {d : Done} (h : expPrimitive s rd rs1 rs2 rs3 = .ok d) :
    ∃ x, doneN s rd x = .ok d := by
  simp only [expPrimitive, bind_eq_ok] at h
  obtain ⟨x, -, n, -, e, -, -, -, h⟩ := h
  exact ⟨_, h⟩

theorem crtPrimitive_ok {s : State} {rd rs1 rs2 : RegIdx} {d : Done} (h : crtPrimitive s rd rs1 rs2 = .ok d) :
    ∃ x, doneN s rd x = .ok d := by
  simp only [crtPrimitive, bind_eq_ok] at h
  obtain ⟨⟨c, k⟩, -, -, -, h⟩ := h
  exact ⟨_, h⟩

/-- Every command completes with the outcome of its run, and an error-free outcome has the command's shape. -/
theorem exec_runs (i : Instr) (s : State) : ∃ r, exec i s = finish s r ∧ ∀ d, r = .ok d → DoneShape i s d := by
  cases i with
  | hash alg rd rs1 =>
    refine ⟨_, rfl, fun d h => ?_⟩
    simp only [bind_eq_ok] at h
    obtain ⟨a, -, m, -, h⟩ := h
    exact shape_os rfl rfl h fun hc _ => by
      have := cfg_ok_le hc; have := hLen_le a; simp; omega
  | mgf1 alg rd rs1 =>
    refine ⟨_, rfl, fun d h => ?_⟩
    simp only [bind_eq_ok, needCapacity_eq_ok] at h
    obtain ⟨a, -, m, -, u, hk, h⟩ := h
    exact shape_os rfl rfl h fun _ _ => by simpa using hk
  | i2osp rd rs1 =>
    refine ⟨_, rfl, fun d h => ?_⟩
    simp only [bind_eq_ok, needCapacity_eq_ok, i2osp_eq_ok] at h
    obtain ⟨x, -, u, hk, v, ⟨-, rfl⟩, h⟩ := h
    exact shape_os rfl rfl h fun _ _ => by simpa using hk
  | os2ip rd rs1 =>
    refine ⟨_, rfl, fun d h => ?_⟩
    simp only [bind_eq_ok] at h
    obtain ⟨x, -, h⟩ := h
    exact shape_n rfl rfl h
  | rsaep rd rs1 rs2 rs3 => exact ⟨_, rfl, fun d h => (expPrimitive_ok h).elim fun _ h => shape_n rfl rfl h⟩
  | rsavp1 rd rs1 rs2 rs3 => exact ⟨_, rfl, fun d h => (expPrimitive_ok h).elim fun _ h => shape_n rfl rfl h⟩
  | rsadp rd rs1 rs2 rs3 => exact ⟨_, rfl, fun d h => (expPrimitive_ok h).elim fun _ h => shape_n rfl rfl h⟩
  | rsasp1 rd rs1 rs2 rs3 => exact ⟨_, rfl, fun d h => (expPrimitive_ok h).elim fun _ h => shape_n rfl rfl h⟩
  | rsadpCrt rd rs1 rs2 => exact ⟨_, rfl, fun d h => (crtPrimitive_ok h).elim fun _ h => shape_n rfl rfl h⟩
  | rsasp1Crt rd rs1 rs2 => exact ⟨_, rfl, fun d h => (crtPrimitive_ok h).elim fun _ h => shape_n rfl rfl h⟩
  | oaepEnc alg rd rs1 rs2 rs3 =>
    refine ⟨_, rfl, fun d h => ?_⟩
    simp only [bind_eq_ok, needCapacity_eq_ok, need_eq_ok, oaepFits, decide_eq_true_eq] at h
    obtain ⟨a, -, m, -, l, -, src, -, u, hk, w, hf, seed, hs, h⟩ := h
    exact shape_os rfl rfl h fun _ _ => by
      rw [oaepEncodeWith_length hf (randOctets_length hs)]; exact hk
  | oaepDec alg rd rs1 rs2 =>
    refine ⟨_, rfl, fun d h => ?_⟩
    simp only [bind_eq_ok, readOS_eq_ok] at h
    obtain ⟨a, -, em, hem, l, -, m, hm, h⟩ := h
    exact shape_os rfl rfl h fun _ hf => (oaepDecode_length hm).trans (osFit_length hf hem)
  | eme15Enc rd rs1 rs3 =>
    refine ⟨_, rfl, fun d h => ?_⟩
    simp only [bind_eq_ok, needCapacity_eq_ok, need_eq_ok, decide_eq_true_eq] at h
    obtain ⟨m, -, src, -, u, hk, w, hf, ps, hs, h⟩ := h
    exact shape_os rfl rfl h fun _ _ => by
      rw [eme15EncodeWith_length, randNonzeroOctets_length hs, eme15PsLen]; omega
  | eme15Dec rd rs1 =>
    refine ⟨_, rfl, fun d h => ?_⟩
    simp only [bind_eq_ok, readOS_eq_ok] at h
    obtain ⟨em, hem, m, hm, h⟩ := h
    exact shape_os rfl rfl h fun _ hf => (eme15Decode_length hm).trans (osFit_length hf hem)
  | pssEnc alg rd rs1 rs3 =>
    refine ⟨_, rfl, fun d h => ?_⟩
    simp only [bind_eq_ok, needCapacity_eq_ok, need_eq_ok, pssFits, decide_eq_true_eq] at h
    obtain ⟨a, -, m, -, src, -, u, hk, w, hf, salt, hs, h⟩ := h
    exact shape_os rfl rfl h fun _ _ => by
      rw [pssEncodeWith_length (by rw [randOctets_length hs]; exact hf)]; exact hk
  | pssVer alg rs1 rs2 =>
    refine ⟨_, rfl, fun d h => ?_⟩
    simp only [bind_eq_ok, doneResult_eq_ok] at h
    obtain ⟨a, -, m, -, em, -, rfl⟩ := h
    exact ⟨.inr (.inr ⟨rfl, rfl, rfl, rfl⟩), fun _ => rfl⟩
  | emsa15Enc alg rd rs1 =>
    refine ⟨_, rfl, fun d h => ?_⟩
    simp only [bind_eq_ok, needCapacity_eq_ok, need_eq_ok, emsa15Fits, decide_eq_true_eq] at h
    obtain ⟨a, -, m, -, u, hk, w, hf, h⟩ := h
    exact shape_os rfl rfl h fun _ _ => by rw [emsa15EncodeRaw_length hf]; exact hk
  | emsa15Ver alg rs1 rs2 =>
    refine ⟨_, rfl, fun d h => ?_⟩
    simp only [bind_eq_ok, doneResult_eq_ok] at h
    obtain ⟨a, -, m, -, em, -, rfl⟩ := h
    exact ⟨.inr (.inr ⟨rfl, rfl, rfl, rfl⟩), fun _ => rfl⟩
  | cteq rs1 rs2 =>
    refine ⟨_, rfl, fun d h => ?_⟩
    simp only [bind_eq_ok, doneResult_eq_ok] at h
    obtain ⟨a, -, b, -, rfl⟩ := h
    exact ⟨.inr (.inr ⟨rfl, rfl, rfl, rfl⟩), fun hn => absurd rfl (hn rs1 rs2)⟩

/-- What `step` can do: the engine runs the latched command, an idle engine leaves the state, an admitted access is performed, any
other access is refused, or the device is reset. -/
theorem step_cases (s : State) :
    (∃ t, s.nextTurn = (.engine, t) ∧ t.status.busy = true ∧
      ((∃ i, decode t.lcmd = some i ∧ step s = exec i t) ∨
       (decode t.lcmd = none ∧ step s = .next (t.takeError .illegalCmd)))) ∨
    (∃ t, s.nextTurn = (.engine, t) ∧ t.status.busy = false ∧ step s = .next t) ∨
    (∃ a t off, s.nextTurn = (.host a, t) ∧ a.offset t.cfg = some off ∧ step s = .next (t.access a off)) ∨
    (∃ a t, s.nextTurn = (.host a, t) ∧ a.offset t.cfg = none ∧ step s = .refused (.accessNotAdmitted a)) ∨
    (∃ t, s.nextTurn = (.reset, t) ∧ step s = .next t.hardReset) := by
  rcases hn : s.nextTurn with ⟨turn, t⟩
  cases turn with
  | engine =>
    cases hb : t.status.busy with
    | true =>
      refine .inl ⟨t, rfl, hb, ?_⟩
      cases hd : decode t.lcmd with
      | some i => exact .inl ⟨i, rfl, by simp [step, hn, engineTurn, hb, engineStep, State.fetch, hd]⟩
      | none => exact .inr ⟨rfl, by simp [step, hn, engineTurn, hb, engineStep, State.fetch, hd, illegalCommand]⟩
    | false => exact .inr (.inl ⟨t, rfl, hb, by simp [step, hn, engineTurn, hb, idle]⟩)
  | host a =>
    cases ho : a.offset t.cfg with
    | some off => exact .inr (.inr (.inl ⟨a, t, off, rfl, ho, by simp [step, hn, hostTurn, ho]⟩))
    | none => exact .inr (.inr (.inr (.inl ⟨a, t, rfl, ho, by simp [step, hn, hostTurn, ho]⟩)))
  | reset => exact .inr (.inr (.inr (.inr ⟨t, rfl, by simp [step, hn, resetTurn]⟩)))

end Sys2Proof.Machine
end

