-- ==== Sys2Proof/Laws/HostPort.lean ====
section
/-! SUPPORT. What a host access can do, said once: reads, writes while BUSY = 1, and the step that performs an access. -/

namespace Sys2Proof.Machine

theorem unlessBusy_of_busy {s : State} (t : State) (h : s.status.busy = true) : s.unlessBusy t = s.hostError := by
  simp [State.unlessBusy, h]

theorem unlessBusy_of_idle {s : State} (t : State) (h : s.status.busy = false) : s.unlessBusy t = t := by
  simp [State.unlessBusy, h]

theorem issue_of_busy {s : State} (w : Word) (h : s.status.busy = true) : s.issue w = s.commandOverflow := by
  simp [State.issue, h]

theorem issue_of_idle {s : State} (w : Word) (h : s.status.busy = false) : s.issue w = s.acceptCommand w := by
  simp [State.issue, h]

/-- An ignored write can change one thing: it sets HOSTERR when BUSY = 1. -/
theorem ignoredWrite_eq (s : State) :
    s.ignoredWrite = { s with status := { s.status with hosterr := s.status.hosterr || s.status.busy } } := by
  cases h : s.status.busy with
  | true => rw [State.ignoredWrite, unlessBusy_of_busy s h]; simp [State.hostError, h]
  | false => rw [State.ignoredWrite, unlessBusy_of_idle s h, Bool.or_false]

/-- Everything a write can do while BUSY = 1: CMDOVF, write-1-to-clear, or HOSTERR. -/
theorem writeReg_of_busy {s : State} (r : MmioReg) (v : Word) (h : s.status.busy = true) :
    (r = .cmd ∧ s.writeReg r v = s.commandOverflow) ∨ (r = .status ∧ s.writeReg r v = s.writeStatus v) ∨
    (r ≠ .cmd ∧ r ≠ .status ∧ s.writeReg r v = s.hostError) := by
  cases r <;> simp [State.writeReg, State.ignoredWrite, unlessBusy_of_busy _ h, issue_of_busy _ h]

/-- A read of any register but OSDATA leaves the state as it is. -/
theorem readReg_state {s : State} {r : MmioReg} (h : r ≠ .osdata) : (s.readReg r).2 = s := by
  cases r <;> first | rfl | exact absurd rfl h

/-- Everything an OSDATA read can do: deliver the octet at OSPTR and advance, or answer 0 and set HOSTERR. -/
theorem readOsdata_cases (s : State) :
    (∃ d, s.status.busy = false ∧ s.portOctet = some d ∧
      s.readOsdata = (d.setWidth 32, { s with osptr := s.osptr + 1 })) ∨
    ((s.status.busy = true ∨ s.portOctet = none) ∧ s.readOsdata = (0, s.hostError)) := by
  cases hb : s.status.busy with
  | true => exact .inr ⟨.inl rfl, by simp [State.readOsdata, hb]⟩
  | false =>
    cases hp : s.portOctet with
    | some d => exact .inl ⟨d, rfl, rfl, by simp [State.readOsdata, hb, hp]⟩
    | none => exact .inr ⟨.inr rfl, by simp [State.readOsdata, hb, hp]⟩

/-- The offsets STATUS, CMD and OSDATA stand at, and only they. -/
theorem mmioRegAt_eq_status {off : Nat} : mmioRegAt off = .status ↔ off = 0x0C := by
  unfold mmioRegAt; split <;> simp_all

theorem mmioRegAt_eq_cmd {off : Nat} : mmioRegAt off = .cmd ↔ off = 0x14 := by
  unfold mmioRegAt; split <;> simp_all

theorem mmioRegAt_reserved {off : Nat} (h : 0x34 ≤ off) : mmioRegAt off = .reserved := by
  unfold mmioRegAt; split <;> first | omega | rfl

theorem admittedOffset_word {c : Config} {off : Nat} (h4 : off % 4 = 0) (h : off ≤ 0xFC) :
    admittedOffset c .word (c.baseAddr + off) = some off := by
  rw [admittedOffset, if_pos ⟨rfl, by omega, by omega, by omega⟩, Nat.add_sub_cancel_left]

/-- The host's turn with an admitted read: the value the register gives, left on the bus. -/
theorem step_mmioRead {s : State} {rest : List Turn} {off : Nat} (h4 : off % 4 = 0) (h : off ≤ 0xFC)
    (hs : s.schedule = mmioRead s.cfg off :: rest) :
    step s = .next { (State.readReg { s with schedule := rest } (mmioRegAt off)).2 with
      readData := some (State.readReg { s with schedule := rest } (mmioRegAt off)).1 } := by
  simp only [mmioRead] at hs
  simp [step, nextTurn_cons hs, hostTurn, HostAccess.offset, admittedOffset_word h4 h, State.access]

/-- The host's turn with an admitted write: what the register's write does. -/
theorem step_mmioWrite {s : State} {rest : List Turn} {off : Nat} {v : Word} (h4 : off % 4 = 0) (h : off ≤ 0xFC)
    (hs : s.schedule = mmioWrite s.cfg off v :: rest) :
    step s = .next (State.writeReg { s with schedule := rest } (mmioRegAt off) v) := by
  simp only [mmioWrite] at hs
  simp [step, nextTurn_cons hs, hostTurn, HostAccess.offset, admittedOffset_word h4 h, State.access]

end Sys2Proof.Machine
end

