-- ==== Sys2Proof/Laws/PerInstr.lean ====
section
/-! SUPPORT. Statements about every instruction as syntax, one lemma per constructor. Family `EncodedWellFormed`: the word the encoder
writes is a well-formed command word (spec/30_encoding.md R105). -/

namespace Sys2Proof.Laws.EncodedWellFormed

/-- The fields of the encoded word are well-formed. -/
def Statement (i : Instr) : Prop := (CmdFields.ofWord (encode i)).wellFormed = true

/-- A packed word is well-formed when its opcode has a row and the fields the row does not use are 0. -/
theorem of_row {op : BitVec 6} {alg : BitVec 3} {rd rs1 rs2 rs3 : RegIdx} (r : OpcodeRow)
    (hrow : opcodeMap.find? (fun r => r.op == op.toNat) = some r)
    (hrd : r.usesRd = true ∨ rd = 0) (hrs2 : r.usesRs2 = true ∨ rs2 = 0) (hrs3 : r.usesRs3 = true ∨ rs3 = 0)
    (halg : r.usesAlg = true ∨ alg = 0) :
    (CmdFields.ofWord (pack op alg rd rs1 rs2 rs3)).wellFormed = true := by
  have h1 := op.isLt
  have h2 := alg.isLt
  simp only [ofWord_pack, CmdFields.wellFormed, CmdFields.fits, hrow, CmdFields.unusedZero]
  simp only [Bool.and_eq_true, Bool.or_eq_true, decide_eq_true_eq, beq_iff_eq]
  refine ⟨⟨⟨⟨⟨⟨⟨⟨h1, h2⟩, rd.isLt⟩, rs1.isLt⟩, rs2.isLt⟩, rs3.isLt⟩, by omega⟩, trivial⟩, ⟨⟨?_, ?_⟩, ?_⟩, ?_⟩
  · exact hrd.imp_right fun h => by simp [h]
  · exact hrs2.imp_right fun h => by simp [h]
  · exact hrs3.imp_right fun h => by simp [h]
  · exact halg.imp_right fun h => by simp [h]

theorem hash (alg : AlgSel) (rd rs1 : RegIdx) : Statement (.hash alg rd rs1) :=
  of_row ⟨0x01, true, false, false, true⟩ rfl (.inl rfl) (.inr rfl) (.inr rfl) (.inl rfl)
theorem mgf1 (alg : AlgSel) (rd rs1 : RegIdx) : Statement (.mgf1 alg rd rs1) :=
  of_row ⟨0x02, true, false, false, true⟩ rfl (.inl rfl) (.inr rfl) (.inr rfl) (.inl rfl)
theorem i2osp (rd rs1 : RegIdx) : Statement (.i2osp rd rs1) :=
  of_row ⟨0x03, true, false, false, false⟩ rfl (.inl rfl) (.inr rfl) (.inr rfl) (.inr rfl)
theorem os2ip (rd rs1 : RegIdx) : Statement (.os2ip rd rs1) :=
  of_row ⟨0x04, true, false, false, false⟩ rfl (.inl rfl) (.inr rfl) (.inr rfl) (.inr rfl)
theorem rsaep (rd rs1 rs2 rs3 : RegIdx) : Statement (.rsaep rd rs1 rs2 rs3) :=
  of_row ⟨0x05, true, true, true, false⟩ rfl (.inl rfl) (.inl rfl) (.inl rfl) (.inr rfl)
theorem rsavp1 (rd rs1 rs2 rs3 : RegIdx) : Statement (.rsavp1 rd rs1 rs2 rs3) :=
  of_row ⟨0x06, true, true, true, false⟩ rfl (.inl rfl) (.inl rfl) (.inl rfl) (.inr rfl)
theorem rsadp (rd rs1 rs2 rs3 : RegIdx) : Statement (.rsadp rd rs1 rs2 rs3) :=
  of_row ⟨0x07, true, true, true, false⟩ rfl (.inl rfl) (.inl rfl) (.inl rfl) (.inr rfl)
theorem rsasp1 (rd rs1 rs2 rs3 : RegIdx) : Statement (.rsasp1 rd rs1 rs2 rs3) :=
  of_row ⟨0x08, true, true, true, false⟩ rfl (.inl rfl) (.inl rfl) (.inl rfl) (.inr rfl)
theorem rsadpCrt (rd rs1 rs2 : RegIdx) : Statement (.rsadpCrt rd rs1 rs2) :=
  of_row ⟨0x09, true, true, false, false⟩ rfl (.inl rfl) (.inl rfl) (.inr rfl) (.inr rfl)
theorem rsasp1Crt (rd rs1 rs2 : RegIdx) : Statement (.rsasp1Crt rd rs1 rs2) :=
  of_row ⟨0x0A, true, true, false, false⟩ rfl (.inl rfl) (.inl rfl) (.inr rfl) (.inr rfl)
theorem oaepEnc (alg : AlgSel) (rd rs1 rs2 rs3 : RegIdx) : Statement (.oaepEnc alg rd rs1 rs2 rs3) :=
  of_row ⟨0x0B, true, true, true, true⟩ rfl (.inl rfl) (.inl rfl) (.inl rfl) (.inl rfl)
theorem oaepDec (alg : AlgSel) (rd rs1 rs2 : RegIdx) : Statement (.oaepDec alg rd rs1 rs2) :=
  of_row ⟨0x0C, true, true, false, true⟩ rfl (.inl rfl) (.inl rfl) (.inr rfl) (.inl rfl)
theorem eme15Enc (rd rs1 rs3 : RegIdx) : Statement (.eme15Enc rd rs1 rs3) :=
  of_row ⟨0x0D, true, false, true, false⟩ rfl (.inl rfl) (.inr rfl) (.inl rfl) (.inr rfl)
theorem eme15Dec (rd rs1 : RegIdx) : Statement (.eme15Dec rd rs1) :=
  of_row ⟨0x0E, true, false, false, false⟩ rfl (.inl rfl) (.inr rfl) (.inr rfl) (.inr rfl)
theorem pssEnc (alg : AlgSel) (rd rs1 rs3 : RegIdx) : Statement (.pssEnc alg rd rs1 rs3) :=
  of_row ⟨0x0F, true, false, true, true⟩ rfl (.inl rfl) (.inr rfl) (.inl rfl) (.inl rfl)
theorem pssVer (alg : AlgSel) (rs1 rs2 : RegIdx) : Statement (.pssVer alg rs1 rs2) :=
  of_row ⟨0x10, false, true, false, true⟩ rfl (.inr rfl) (.inl rfl) (.inr rfl) (.inl rfl)
theorem emsa15Enc (alg : AlgSel) (rd rs1 : RegIdx) : Statement (.emsa15Enc alg rd rs1) :=
  of_row ⟨0x11, true, false, false, true⟩ rfl (.inl rfl) (.inr rfl) (.inr rfl) (.inl rfl)
theorem emsa15Ver (alg : AlgSel) (rs1 rs2 : RegIdx) : Statement (.emsa15Ver alg rs1 rs2) :=
  of_row ⟨0x12, false, true, false, true⟩ rfl (.inr rfl) (.inl rfl) (.inr rfl) (.inl rfl)
theorem cteq (rs1 rs2 : RegIdx) : Statement (.cteq rs1 rs2) :=
  of_row ⟨0x13, false, true, false, false⟩ rfl (.inr rfl) (.inl rfl) (.inr rfl) (.inr rfl)

end Sys2Proof.Laws.EncodedWellFormed
end

