-- ==== Sys2Proof/Tests/Slice0.lean ====
section
/-! SUPPORT. The model's own tests. Expected values come from spec/ alone (95_test_vectors.md, named at each test), never from the
model. Then, for every obligation that has hypotheses, a concrete state and operands that meet them (`witness_...`). -/

set_option Elab.async false

namespace Sys2Proof.Tests
open Sys2Proof Sys2Proof.Machine

/-! ### Helpers -/

/-- The octets of a hexadecimal literal of `n` octets, written out by shifts. -/
def octets (n x : Nat) : OctetString := (List.range n).map fun i => BitVec.ofNat 8 (x >>> (8 * (n - 1 - i)))

/-- A state with the given registers, parameters and random source latched, BUSY = 1. -/
def ready (os : List (RegIdx × OctetString)) (ns : List (RegIdx × Nat)) (p0 p1 : Nat) (rng : Bool) : State :=
  let s := ns.foldl (fun s r => s.setN r.1 r.2) (os.foldl (fun s r => s.setOS r.1 r.2) State.reset)
  { s with
    lparam0 := BitVec.ofNat 32 p0, lparam1 := BitVec.ofNat 32 p1, lrngsrc := rng
    status := { s.status with busy := true } }

/-- The next state, if there is one. -/
def nx : Host.Outcome State Fault Refusal → Option State
  | .next t => some t
  | .fault _ => none
  | .refused _ => none

/-- OS register `r` after `i`. -/
def osAfter (i : Instr) (s : State) (r : RegIdx) : Option OctetString := (nx (exec i s)).bind (·.os r)

/-- N register `r` after `i`. -/
def nAfter (i : Instr) (s : State) (r : RegIdx) : Option Nat := (nx (exec i s)).bind (·.n r)

/-- The word STATUS reads and the error number after `i`. -/
def outcome (i : Instr) (s : State) : Option (Word × Word) := (nx (exec i s)).map fun t => (t.status.toWord, errWord t.errcode)

/-- One host write on `s`. -/
def hostWrite (s : State) (off : Nat) (v : Word) : Option State := nx (step { s with schedule := [mmioWrite s.cfg off v] })

/-- One host read on `s`. -/
def hostRead (s : State) (off : Nat) : Option State := nx (step { s with schedule := [mmioRead s.cfg off] })

/-! ### Decoding: words written out field by field from R101 and R104 (RSV, RS3, RS2, RS1, RD, ALG, OP) -/

/-- 95_test_vectors.md B1: word 0x00004481. -/
theorem test_decode_hash :
    decode 0b000_00000_00000_00001_00010_010_000001 = some (.hash (some .sha256) 2 1) := by
  decide +kernel

/-- 95_test_vectors.md B2: word 0x0000C802. -/
theorem test_decode_mgf1 :
    decode 0b000_00000_00000_00011_00100_000_000010 = some (.mgf1 (some .sha1) 4 3) := by
  decide +kernel

/-- 95_test_vectors.md B3: word 0x00004A03. -/
theorem test_decode_i2osp :
    decode 0b000_00000_00000_00001_00101_000_000011 = some (.i2osp 5 1) := by
  decide +kernel

/-- 95_test_vectors.md B4: word 0x00014204. -/
theorem test_decode_os2ip :
    decode 0b000_00000_00000_00101_00001_000_000100 = some (.os2ip 1 5) := by
  decide +kernel

/-- 95_test_vectors.md B5: word 0x03104A05. -/
theorem test_decode_rsaep :
    decode 0b000_00011_00010_00001_00101_000_000101 = some (.rsaep 5 1 2 3) := by
  decide +kernel

/-- 95_test_vectors.md B6: word 0x03114C06. -/
theorem test_decode_rsavp1 :
    decode 0b000_00011_00010_00101_00110_000_000110 = some (.rsavp1 6 5 2 3) := by
  decide +kernel

/-- 95_test_vectors.md B7: word 0x04114E07. -/
theorem test_decode_rsadp :
    decode 0b000_00100_00010_00101_00111_000_000111 = some (.rsadp 7 5 2 4) := by
  decide +kernel

/-- 95_test_vectors.md B8: word 0x04104E08. -/
theorem test_decode_rsasp1 :
    decode 0b000_00100_00010_00001_00111_000_001000 = some (.rsasp1 7 1 2 4) := by
  decide +kernel

/-- 95_test_vectors.md B9: word 0x00404809. -/
theorem test_decode_rsadpCrt :
    decode 0b000_00000_01000_00001_00100_000_001001 = some (.rsadpCrt 4 1 8) := by
  decide +kernel

/-- 95_test_vectors.md B10: word 0x0040480A. -/
theorem test_decode_rsasp1Crt :
    decode 0b000_00000_01000_00001_00100_000_001010 = some (.rsasp1Crt 4 1 8) := by
  decide +kernel

/-- 95_test_vectors.md B11: word 0x0910460B. -/
theorem test_decode_oaepEnc :
    decode 0b000_01001_00010_00001_00011_000_001011 = some (.oaepEnc (some .sha1) 3 1 2 9) := by
  decide +kernel

/-- 95_test_vectors.md B12: word 0x0010C80C. -/
theorem test_decode_oaepDec :
    decode 0b000_00000_00010_00011_00100_000_001100 = some (.oaepDec (some .sha1) 4 3 2) := by
  decide +kernel

/-- 95_test_vectors.md B13: word 0x0900460D. -/
theorem test_decode_eme15Enc :
    decode 0b000_01001_00000_00001_00011_000_001101 = some (.eme15Enc 3 1 9) := by
  decide +kernel

/-- 95_test_vectors.md B14: word 0x0000C80E. -/
theorem test_decode_eme15Dec :
    decode 0b000_00000_00000_00011_00100_000_001110 = some (.eme15Dec 4 3) := by
  decide +kernel

/-- 95_test_vectors.md B15: word 0x0900468F. -/
theorem test_decode_pssEnc :
    decode 0b000_01001_00000_00001_00011_010_001111 = some (.pssEnc (some .sha256) 3 1 9) := by
  decide +kernel

/-- 95_test_vectors.md B16: word 0x00104090. -/
theorem test_decode_pssVer :
    decode 0b000_00000_00010_00001_00000_010_010000 = some (.pssVer (some .sha256) 1 2) := by
  decide +kernel

/-- 95_test_vectors.md B17: word 0x00004611. -/
theorem test_decode_emsa15Enc :
    decode 0b000_00000_00000_00001_00011_000_010001 = some (.emsa15Enc (some .sha1) 3 1) := by
  decide +kernel

/-- 95_test_vectors.md B18: word 0x00104012. -/
theorem test_decode_emsa15Ver :
    decode 0b000_00000_00010_00001_00000_000_010010 = some (.emsa15Ver (some .sha1) 1 2) := by
  decide +kernel

/-- 95_test_vectors.md B19: word 0x005A8013. -/
theorem test_decode_cteq :
    decode 0b000_00000_01011_01010_00000_000_010011 = some (.cteq 10 11) := by
  decide +kernel

/-- B20: word 0x0007FF81. -/
theorem test_decode_top_registers :
    decode 0b000_00000_00000_11111_11111_110_000001 = some (.hash (some .sha512_256) 31 31) := by
  decide +kernel

/-- §B, last line: ALG = 7 is well-formed. -/
theorem test_decode_unsupported_alg :
    decode 0x000045C1 = some (.hash none 2 1) := by
  decide +kernel

/-- B26, well-formed. -/
theorem test_decode_contrast :
    decode 0x00000052 = some (.emsa15Ver (some .sha224) 0 0) := by
  decide +kernel

/-- B21 to B25, B27 and B28. -/
theorem test_decode_illegal :
    decode 0x00000000 = none ∧
    decode 0x00000014 = none ∧
    decode 0x0000003F = none ∧
    decode 0x20004481 = none ∧
    decode 0x00084481 = none ∧
    decode 0x00000053 = none ∧
    decode 0x00000213 = none := by
  decide +kernel

/-- B1 to B19, the other direction. -/
theorem test_encode_words :
    encode (.hash (some .sha256) 2 1) = 0x00004481 ∧
    encode (.mgf1 (some .sha1) 4 3) = 0x0000C802 ∧
    encode (.i2osp 5 1) = 0x00004A03 ∧
    encode (.os2ip 1 5) = 0x00014204 ∧
    encode (.rsaep 5 1 2 3) = 0x03104A05 ∧
    encode (.rsavp1 6 5 2 3) = 0x03114C06 ∧
    encode (.rsadp 7 5 2 4) = 0x04114E07 ∧
    encode (.rsasp1 7 1 2 4) = 0x04104E08 ∧
    encode (.rsadpCrt 4 1 8) = 0x00404809 ∧
    encode (.rsasp1Crt 4 1 8) = 0x0040480A ∧
    encode (.oaepEnc (some .sha1) 3 1 2 9) = 0x0910460B ∧
    encode (.oaepDec (some .sha1) 4 3 2) = 0x0010C80C ∧
    encode (.eme15Enc 3 1 9) = 0x0900460D ∧
    encode (.eme15Dec 4 3) = 0x0000C80E ∧
    encode (.pssEnc (some .sha256) 3 1 9) = 0x0900468F ∧
    encode (.pssVer (some .sha256) 1 2) = 0x00104090 ∧
    encode (.emsa15Enc (some .sha1) 3 1) = 0x00004611 ∧
    encode (.emsa15Ver (some .sha1) 1 2) = 0x00104012 ∧
    encode (.cteq 10 11) = 0x005A8013 := by
  decide +kernel

/-- The examples of R108, and an RS3 source that is omitted when 0. -/
theorem test_asm_text :
    asmText (.hash (some .sha256) 2 1) = some "hash.sha256 os2, os1" ∧
    asmText (.rsadpCrt 4 1 8) = some "rsadp.crt n4, n1, key(n8)" ∧
    asmText (.pssVer (some .sha256) 1 2) = some "pss.ver.sha256 os1, os2" ∧
    asmText (.oaepEnc (some .sha1) 3 1 2 9) = some "oaep.enc.sha1 os3, os1, os2, os9" ∧
    asmText (.oaepEnc (some .sha1) 3 1 2 0) = some "oaep.enc.sha1 os3, os1, os2" := by
  decide +kernel

/-! ### Well-formedness: one ill-formed term for each check -/

theorem test_wf_good :
    ({ op := 0x01, alg := 2, rd := 2, rs1 := 1, rs2 := 0, rs3 := 0, rsv := 0 } : CmdFields).wellFormed = true := by
  decide +kernel

theorem test_wf_bad_op_width :
    ({ op := 65, alg := 2, rd := 2, rs1 := 1, rs2 := 0, rs3 := 0, rsv := 0 } : CmdFields).wellFormed = false := by
  decide +kernel

theorem test_wf_bad_alg_width :
    ({ op := 0x01, alg := 8, rd := 2, rs1 := 1, rs2 := 0, rs3 := 0, rsv := 0 } : CmdFields).wellFormed = false := by
  decide +kernel

theorem test_wf_bad_rd_width :
    ({ op := 0x01, alg := 2, rd := 32, rs1 := 1, rs2 := 0, rs3 := 0, rsv := 0 } : CmdFields).wellFormed = false := by
  decide +kernel

theorem test_wf_bad_rs1_width :
    ({ op := 0x01, alg := 2, rd := 2, rs1 := 32, rs2 := 0, rs3 := 0, rsv := 0 } : CmdFields).wellFormed = false := by
  decide +kernel

theorem test_wf_bad_rs2_width :
    ({ op := 0x05, alg := 0, rd := 2, rs1 := 1, rs2 := 32, rs3 := 0, rsv := 0 } : CmdFields).wellFormed = false := by
  decide +kernel

theorem test_wf_bad_rs3_width :
    ({ op := 0x05, alg := 0, rd := 2, rs1 := 1, rs2 := 0, rs3 := 32, rsv := 0 } : CmdFields).wellFormed = false := by
  decide +kernel

theorem test_wf_bad_rsv :
    ({ op := 0x01, alg := 2, rd := 2, rs1 := 1, rs2 := 0, rs3 := 0, rsv := 1 } : CmdFields).wellFormed = false := by
  decide +kernel

theorem test_wf_bad_rsv_width :
    ({ op := 0x01, alg := 2, rd := 2, rs1 := 1, rs2 := 0, rs3 := 0, rsv := 8 } : CmdFields).wellFormed = false := by
  decide +kernel

theorem test_wf_bad_opcode_zero :
    ({ op := 0, alg := 2, rd := 2, rs1 := 1, rs2 := 0, rs3 := 0, rsv := 0 } : CmdFields).wellFormed = false := by
  decide +kernel

theorem test_wf_bad_opcode_high :
    ({ op := 0x14, alg := 2, rd := 2, rs1 := 1, rs2 := 0, rs3 := 0, rsv := 0 } : CmdFields).wellFormed = false := by
  decide +kernel

theorem test_wf_bad_unused_rs2 :
    ({ op := 0x01, alg := 2, rd := 2, rs1 := 1, rs2 := 1, rs3 := 0, rsv := 0 } : CmdFields).wellFormed = false := by
  decide +kernel

theorem test_wf_bad_unused_rs3 :
    ({ op := 0x01, alg := 2, rd := 2, rs1 := 1, rs2 := 0, rs3 := 1, rsv := 0 } : CmdFields).wellFormed = false := by
  decide +kernel

theorem test_wf_bad_unused_alg :
    ({ op := 0x03, alg := 2, rd := 2, rs1 := 1, rs2 := 0, rs3 := 0, rsv := 0 } : CmdFields).wellFormed = false := by
  decide +kernel

theorem test_wf_bad_unused_rd :
    ({ op := 0x13, alg := 0, rd := 2, rs1 := 1, rs2 := 0, rs3 := 0, rsv := 0 } : CmdFields).wellFormed = false := by
  decide +kernel

/-! ### Commands: expected values from 95_test_vectors.md, ids in the docstrings -/

/-- C1, message M2, all seven algorithms. -/
theorem test_hash_abc :
    osAfter (.hash (some .sha1) 2 1) (ready [(1, (octets 3 0x616263))] [] 0 0 false) 2 =
      some (octets 20 0xa9993e364706816aba3e25717850c26c9cd0d89d) ∧
    osAfter (.hash (some .sha224) 2 1) (ready [(1, (octets 3 0x616263))] [] 0 0 false) 2 =
      some (octets 28 0x23097d223405d8228642a477bda255b32aadbce4bda0b3f7e36c9da7) ∧
    osAfter (.hash (some .sha256) 2 1) (ready [(1, (octets 3 0x616263))] [] 0 0 false) 2 =
      some (octets 32 0xba7816bf8f01cfea414140de5dae2223b00361a396177a9cb410ff61f20015ad) ∧
    osAfter (.hash (some .sha384) 2 1) (ready [(1, (octets 3 0x616263))] [] 0 0 false) 2 =
      some (octets 48 0xcb00753f45a35e8bb5a03d699ac65007272c32ab0eded1631a8b605a43ff5bed8086072ba1e7cc2358baeca134c825a7) ∧
    osAfter (.hash (some .sha512) 2 1) (ready [(1, (octets 3 0x616263))] [] 0 0 false) 2 =
      some (octets 64 0xddaf35a193617abacc417349ae20413112e6fa4e89a97ea20a9eeee64b55d39a2192992a274fc1a836ba3c23a3feebbd454d4423643ce80e2a9ac94fa54ca49f) ∧
    osAfter (.hash (some .sha512_224) 2 1) (ready [(1, (octets 3 0x616263))] [] 0 0 false) 2 =
      some (octets 28 0x4634270f707b6a54daae7530460842e20e37ed265ceee9a43e8924aa) ∧
    osAfter (.hash (some .sha512_256) 2 1) (ready [(1, (octets 3 0x616263))] [] 0 0 false) 2 =
      some (octets 32 0x53048e2681941ef99b2e29b76b4c7dabe4c2d0c634fc6d46e0e2f13107e7af23) := by
  decide +kernel

/-- C1: SHA-1 of M3 (56 octets) and SHA-384 of M4 (112 octets), the first lengths that need two blocks; source also destination. -/
theorem test_hash_two_blocks :
    osAfter (.hash (some .sha1) 2 1) (ready [(1, (octets 56 0x6162636462636465636465666465666765666768666768696768696a68696a6b696a6b6c6a6b6c6d6b6c6d6e6c6d6e6f6d6e6f706e6f7071))] [] 0 0 false) 2 =
      some (octets 20 0x84983e441c3bd26ebaae4aa1f95129e5e54670f1) ∧
    osAfter (.hash (some .sha384) 1 1) (ready [(1, (octets 112 0x61626364656667686263646566676869636465666768696a6465666768696a6b65666768696a6b6c666768696a6b6c6d6768696a6b6c6d6e68696a6b6c6d6e6f696a6b6c6d6e6f706a6b6c6d6e6f70716b6c6d6e6f7071726c6d6e6f707172736d6e6f70717273746e6f707172737475))] [] 0 0 false) 1 =
      some (octets 48 0x09330c33f71147e83d192fc782cd1b4753111b173b3b05d22fa08086e3b0f712fcc7c71a557e2db966c3e9fa91746039) := by
  decide +kernel

/-- D4. -/
theorem test_mgf1_sha256 :
    osAfter (.mgf1 (some .sha256) 4 3) (ready [(3, (octets 3 0x626172))] [] 50 0 false) 4 =
      some (octets 50 0x382576a7841021cc28fc4c0948753fb8312090cea942ea4c4e735d10dc724b155f9f6069f289d61daca0cb814502ef04eae1) := by
  decide +kernel

/-- D4d. -/
theorem test_mgf1_capacity :
    outcome (.mgf1 (some .sha1) 4 3) (ready [(3, (octets 3 0x666f6f))] [] 1025 0 false) = some (0x06, 7) := by
  decide +kernel

/-- D7. -/
theorem test_i2osp_value :
    osAfter (.i2osp 5 1) (ready [] [(1, 0x0102)] 4 0 false) 5 = some [0x00, 0x00, 0x01, 0x02] := by
  decide +kernel

/-- D9. -/
theorem test_i2osp_encoding :
    outcome (.i2osp 5 1) (ready [] [(1, 256)] 1 0 false) = some (0x06, 1) := by
  decide +kernel

/-- D13. -/
theorem test_os2ip_value :
    nAfter (.os2ip 0 1) (ready [(1, [0x0c, 0xa1])] [] 0 0 false) 0 = some 3233 := by
  decide +kernel

/-- D12. -/
theorem test_os2ip_leading_zeros :
    nAfter (.os2ip 0 1) (ready [(1, [0x00, 0x00, 0x01])] [] 0 0 false) 0 = some 1 := by
  decide +kernel

/-- G1. -/
theorem test_rsaep_toy :
    nAfter (.rsaep 5 1 2 3) (ready [] [(1, 65), (2, 3233), (3, 17)] 0 0 false) 5 = some 2790 := by
  decide +kernel

/-- G2. -/
theorem test_rsaep_range :
    outcome (.rsaep 5 1 2 3) (ready [] [(1, 3233), (2, 3233), (3, 17)] 0 0 false) = some (0x06, 2) := by
  decide +kernel

/-- G1c. -/
theorem test_rsavp1_toy :
    nAfter (.rsavp1 6 5 2 3) (ready [] [(5, 588), (2, 3233), (3, 17)] 0 0 false) 6 = some 65 := by
  decide +kernel

/-- G5a, the 512-bit key K2. -/
theorem test_rsadp_key2 :
    nAfter (.rsadp 7 5 2 4) (ready [] [(5, 0x55511efc1727049abf2b59743cb80681d8613a246a3062f06e4d41281ae6ccc78073cd6824a51b83506c232637b1b40b3b67bfee45c63ae754f2b7765bedc18f),
      (2, 0x9c00000000000000000000000000000000000000000000000000000006dcbba970000000000000000000000000000000000000000000000000086a21c9f65e4b),
      (4, 0x47f2140debf2140debf2140debf2140debf2140debf2140debf2140def1c440b935a4ca5b35a4ca5b35a4ca5b35a4ca5b35a4ca5b35a4ca5b35e2e1c6d4a0ae9)] 0 0 false) 7 =
      some 0x1234567890abcdef := by
  decide +kernel

/-- G2e. -/
theorem test_rsadp_range :
    outcome (.rsadp 7 5 2 4) (ready [] [(5, 4000), (2, 3233), (4, 2753)] 0 0 false) = some (0x06, 2) := by
  decide +kernel

/-- G1b, the modulus register as destination. -/
theorem test_rsasp1_toy :
    nAfter (.rsasp1 2 1 2 4) (ready [] [(1, 65), (2, 3233), (4, 2753)] 0 0 false) 2 = some 588 := by
  decide +kernel

/-- G5c, the three-prime key K3; the destination lies inside the key block. -/
theorem test_rsadpCrt_key3 :
    nAfter (.rsadpCrt 16 1 16) (ready [] [(1, 0x45f1768c56185897b0531b6fb85978026e69211237759a508e97ac7c4b1fdccd2cbfb935f074d4de1eecdd874aaf7f188e9d1e200a6648746fb471ddf48ab19a),
      (16, 0x580000000000000000000000000000000000000001f),
      (17, 0x500000000000000000000000000000000000000001b),
      (18, 0x49bdc64239bdc64239bdc64239bdc64239bdc6423b5),
      (19, 0xfdd80227fdd80227fdd80227fdd80227fdd8022803),
      (20, 0x289d89d89d89d89d89d89d89d89d89d89d89d89d8ab),
      (21, 0x480000000000000000000000000000000000000007f),
      (22, 0x5039afc65039afc65039afc65039afc65039afc659),
      (23, 0x1d2977e945b613f3193f27883f40c2b89b53a23f751)] 1 0 false) 16 =
      some 0x1234567890abcdef := by
  decide +kernel

/-- G4d (25 + 5 + 3 > 32), and G4h (inconsistent key material). -/
theorem test_rsadpCrt_block :
    outcome (.rsadpCrt 4 1 25) (ready [] [(1, 5)] 1 0 false) = some (0x06, 6) ∧
    nAfter (.rsadpCrt 4 1 8) (ready [] [(1, 5), (8, 7), (9, 11), (10, 1), (11, 1), (12, 1)] 0 0 false) 4 = some 5 := by
  decide +kernel

/-- G3a. -/
theorem test_rsasp1Crt_toy :
    nAfter (.rsasp1Crt 4 1 8) (ready [] [(1, 65), (8, 61), (9, 53), (10, 53), (11, 49), (12, 38)] 0 0 false) 4 = some 588 := by
  decide +kernel

/-- G3b, on the signature opcode. -/
theorem test_rsasp1Crt_range :
    outcome (.rsasp1Crt 4 1 8) (ready [] [(1, 3233), (8, 61), (9, 53), (10, 53), (11, 49), (12, 38)] 0 0 false) =
      some (0x06, 2) := by
  decide +kernel

/-- E4. -/
theorem test_oaepEnc_label :
    osAfter (.oaepEnc (some .sha256) 3 1 2 9) (ready [(1, (octets 19 0x54686520717569636b2062726f776e20666f78)), (2, (octets 5 0x6c6162656c)),
      (9, (octets 32 0xa0a1a2a3a4a5a6a7a8a9aaabacadaeafb0b1b2b3b4b5b6b7b8b9babbbcbdbebf))] [] 128 0 true) 3 =
      some (octets 128 0x007cac2f154535a457fdb743d207209e2ee8a55ed9b8bb2316a4f3228a29589a1556d8af27b9a33defd1525357c1c2a9b8217ef2c9e3f9217a0f398d5a7a9368aefd93821a26e9f1dd4ea6d6bf5d1bb168ca935e08b2e97d00c6f1afcd1d48f92ec8bf2cf85cf376559513815875d1e712c4585fe48626c3ddfe4b0a5db126ff) := by
  decide +kernel

/-- E5d. -/
theorem test_oaepEnc_source_short :
    outcome (.oaepEnc (some .sha1) 3 1 2 9) (ready [(1, []), (2, []), (9, octets 19 0)] [] 64 0 true) = some (0x06, 8) := by
  decide +kernel

/-- E2. -/
theorem test_oaepDec_hello :
    osAfter (.oaepDec (some .sha1) 4 3 2) (ready [(2, []), (3, (octets 64 0x00033e57ab93fd535e667acac6dccb7c08743773cfd8bcf0367fb055802993d44ae1a0fb809edd2e3899f37263a574171d607880917aefcf642295d8eef44b7e))] [] 64 0 false) 4 =
      some (octets 5 0x68656c6c6f) := by
  decide +kernel

/-- E3a (first octet 01) and E3b (another label). -/
theorem test_oaepDec_uniform :
    outcome (.oaepDec (some .sha1) 4 3 2) (ready [(2, []), (3, (octets 64 0x01033e57ab93fd535e667acac6dccb7c08743773cfd8bcf0367fb055802993d44ae1a0fb809edd2e3899f37263a574171d607880917aefcf642295d8eef44b7e))] [] 64 0 false) =
      some (0x06, 3) ∧
    outcome (.oaepDec (some .sha1) 4 3 2) (ready [(2, (octets 1 0x78)), (3, (octets 64 0x00033e57ab93fd535e667acac6dccb7c08743773cfd8bcf0367fb055802993d44ae1a0fb809edd2e3899f37263a574171d607880917aefcf642295d8eef44b7e))] [] 64 0 false) =
      some (0x06, 3) := by
  decide +kernel

/-- E6. -/
theorem test_eme15Enc_value :
    osAfter (.eme15Enc 3 1 9) (ready [(1, [0x68, 0x69]), (9, octets 8 0x1111111111111111)] [] 13 0 true) 3 =
      some (octets 13 0x00021111111111111111006869) := by
  decide +kernel

/-- E6c. -/
theorem test_eme15Enc_zero_octet :
    outcome (.eme15Enc 3 1 9) (ready [(1, [0x68, 0x69]), (9, octets 8 0x1111110011111111)] [] 13 0 true) = some (0x06, 8) := by
  decide +kernel

/-- E7g. -/
theorem test_eme15Dec_value :
    osAfter (.eme15Dec 4 3) (ready [(3, octets 13 0x00021111111111111111000000)] [] 13 0 false) 4 = some [0x00, 0x00] := by
  decide +kernel

/-- E7. -/
theorem test_eme15Dec_short_ps :
    outcome (.eme15Dec 4 3) (ready [(3, octets 13 0x000211111111111111006869aa)] [] 13 0 false) = some (0x06, 3) := by
  decide +kernel

/-- F1 (one bit cleared). -/
theorem test_pssEnc_mask :
    osAfter (.pssEnc (some .sha256) 3 1 9) (ready [(1, (octets 3 0x616263)), (9, octets 32 0)] [] 1023 32 true) 3 =
      some (octets 128 0x463578503911c0877c4ee1a23a6d76061a76a1708a322a060fcc65ae8a14806580e128a117f2637e5c9b5fa738c92a108e5e414932b40f537b54289031e4acaa748305f916098ce75db650d4e949a281197270d0a505ac286746785ecc10496ca964b5548621cbc0402d48381395ca72e12acc8b7006d478e1efadb5cbf024bc) := by
  decide +kernel

/-- F5 (six bits cleared, no salt). -/
theorem test_pssEnc_minimum :
    osAfter (.pssEnc (some .sha1) 3 1 0) (ready [(1, [])] [] 170 0 false) 3 = some (octets 22 0x01a35d1688a60ac69fd53e44428bfd380e94db9176bc) := by
  decide +kernel

/-- F2. -/
theorem test_pssVer_accepts :
    outcome (.pssVer (some .sha256) 1 2) (ready [(1, (octets 3 0x616263)),
      (2, (octets 128 0x463578503911c0877c4ee1a23a6d76061a76a1708a322a060fcc65ae8a14806580e128a117f2637e5c9b5fa738c92a108e5e414932b40f537b54289031e4acaa748305f916098ce75db650d4e949a281197270d0a505ac286746785ecc10496ca964b5548621cbc0402d48381395ca72e12acc8b7006d478e1efadb5cbf024bc))] [] 1023 32 false) =
      some (0x0A, 0) := by
  decide +kernel

/-- F3c (leftmost bit set) and F3. -/
theorem test_pssVer_rejects :
    outcome (.pssVer (some .sha256) 1 2) (ready [(1, (octets 3 0x616263)),
      (2, (octets 128 0xc63578503911c0877c4ee1a23a6d76061a76a1708a322a060fcc65ae8a14806580e128a117f2637e5c9b5fa738c92a108e5e414932b40f537b54289031e4acaa748305f916098ce75db650d4e949a281197270d0a505ac286746785ecc10496ca964b5548621cbc0402d48381395ca72e12acc8b7006d478e1efadb5cbf024bc))] [] 1023 32 false) =
      some (0x02, 0) ∧
    outcome (.pssVer (some .sha256) 1 2) (ready [(1, (octets 3 0x616263)),
      (2, (octets 128 0x473578503911c0877c4ee1a23a6d76061a76a1708a322a060fcc65ae8a14806580e128a117f2637e5c9b5fa738c92a108e5e414932b40f537b54289031e4acaa748305f916098ce75db650d4e949a281197270d0a505ac286746785ecc10496ca964b5548621cbc0402d48381395ca72e12acc8b7006d478e1efadb5cbf024bc))] [] 1023 32 false) =
      some (0x02, 0) := by
  decide +kernel

/-- F8.0 to F8.6: the seven DER prefixes at the least emLen. -/
theorem test_emsa15Enc_prefixes :
    osAfter (.emsa15Enc (some .sha1) 3 1) (ready [(1, (octets 3 0x616263))] [] 46 0 false) 3 =
      some (octets 46 0x0001ffffffffffffffff003021300906052b0e03021a05000414a9993e364706816aba3e25717850c26c9cd0d89d) ∧
    osAfter (.emsa15Enc (some .sha224) 3 1) (ready [(1, (octets 3 0x616263))] [] 58 0 false) 3 =
      some (octets 58 0x0001ffffffffffffffff00302d300d06096086480165030402040500041c23097d223405d8228642a477bda255b32aadbce4bda0b3f7e36c9da7) ∧
    osAfter (.emsa15Enc (some .sha256) 3 1) (ready [(1, (octets 3 0x616263))] [] 62 0 false) 3 =
      some (octets 62 0x0001ffffffffffffffff003031300d060960864801650304020105000420ba7816bf8f01cfea414140de5dae2223b00361a396177a9cb410ff61f20015ad) ∧
    osAfter (.emsa15Enc (some .sha384) 3 1) (ready [(1, (octets 3 0x616263))] [] 78 0 false) 3 =
      some (octets 78 0x0001ffffffffffffffff003041300d060960864801650304020205000430cb00753f45a35e8bb5a03d699ac65007272c32ab0eded1631a8b605a43ff5bed8086072ba1e7cc2358baeca134c825a7) ∧
    osAfter (.emsa15Enc (some .sha512) 3 1) (ready [(1, (octets 3 0x616263))] [] 94 0 false) 3 =
      some (octets 94 0x0001ffffffffffffffff003051300d060960864801650304020305000440ddaf35a193617abacc417349ae20413112e6fa4e89a97ea20a9eeee64b55d39a2192992a274fc1a836ba3c23a3feebbd454d4423643ce80e2a9ac94fa54ca49f) ∧
    osAfter (.emsa15Enc (some .sha512_224) 3 1) (ready [(1, (octets 3 0x616263))] [] 58 0 false) 3 =
      some (octets 58 0x0001ffffffffffffffff00302d300d06096086480165030402050500041c4634270f707b6a54daae7530460842e20e37ed265ceee9a43e8924aa) ∧
    osAfter (.emsa15Enc (some .sha512_256) 3 1) (ready [(1, (octets 3 0x616263))] [] 62 0 false) 3 =
      some (octets 62 0x0001ffffffffffffffff003031300d06096086480165030402060500042053048e2681941ef99b2e29b76b4c7dabe4c2d0c634fc6d46e0e2f13107e7af23) := by
  decide +kernel

/-- F6c. -/
theorem test_emsa15Enc_short :
    outcome (.emsa15Enc (some .sha256) 3 1) (ready [(1, (octets 3 0x616263))] [] 61 0 false) = some (0x06, 1) := by
  decide +kernel

/-- F6a. -/
theorem test_emsa15Ver_accepts :
    outcome (.emsa15Ver (some .sha256) 1 2) (ready [(1, (octets 3 0x616263)), (2, (octets 62 0x0001ffffffffffffffff003031300d060960864801650304020105000420ba7816bf8f01cfea414140de5dae2223b00361a396177a9cb410ff61f20015ad))] [] 62 0 false) =
      some (0x0A, 0) := by
  decide +kernel

/-- F6b and F6d. -/
theorem test_emsa15Ver_length :
    outcome (.emsa15Ver (some .sha256) 1 2) (ready [(1, (octets 3 0x616263)), (2, (octets 62 0x0001ffffffffffffffff003031300d060960864801650304020105000420ba7816bf8f01cfea414140de5dae2223b00361a396177a9cb410ff61f20015ad))] [] 63 0 false) =
      some (0x02, 0) ∧
    outcome (.emsa15Ver (some .sha256) 1 2) (ready [(1, (octets 3 0x616263)), (2, (octets 62 0x0001ffffffffffffffff003031300d060960864801650304020105000420ba7816bf8f01cfea414140de5dae2223b00361a396177a9cb410ff61f20015ad))] [] 61 0 false) =
      some (0x02, 0) := by
  decide +kernel

/-- H4. -/
theorem test_cteq_longer :
    outcome (.cteq 10 11) (ready [(10, [1, 2, 3]), (11, [1, 2, 3, 0])] [] 0 0 false) = some (0x02, 0) ∧
    (nx (exec (.cteq 10 11) (ready [(10, [1, 2, 3]), (11, [1, 2, 3, 0])] [] 0 0 false))).map (·.ctiter) = some 4 := by
  decide +kernel

/-- H1. -/
theorem test_cteq_equal :
    outcome (.cteq 10 11) (ready [(10, [1, 2, 3]), (11, [1, 2, 3])] [] 0 0 false) = some (0x0A, 0) ∧
    (nx (exec (.cteq 10 11) (ready [(10, [1, 2, 3]), (11, [1, 2, 3])] [] 0 0 false))).map (·.ctiter) = some 3 := by
  decide +kernel

/-- R209: the generation of the two SHA-512/t initial values from the name of the variant. -/
theorem test_sha512_t_iv :
    let h0 : Vars8 64 := ⟨ivSha512.a ^^^ 0xa5a5a5a5a5a5a5a5, ivSha512.b ^^^ 0xa5a5a5a5a5a5a5a5,
      ivSha512.c ^^^ 0xa5a5a5a5a5a5a5a5, ivSha512.d ^^^ 0xa5a5a5a5a5a5a5a5, ivSha512.e ^^^ 0xa5a5a5a5a5a5a5a5,
      ivSha512.f ^^^ 0xa5a5a5a5a5a5a5a5, ivSha512.g ^^^ 0xa5a5a5a5a5a5a5a5, ivSha512.h ^^^ 0xa5a5a5a5a5a5a5a5⟩
    sha512From h0 (octets 11 0x5348412d3531322f323234) = serialize ivSha512_224.words ∧
    sha512From h0 (octets 11 0x5348412d3531322f323536) = serialize ivSha512_256.words := by
  decide +kernel

/-! ### The host interface: one step each (95_test_vectors.md §I) -/

/-- A device with `hash.sha256 os2, os1` issued on OS1 = "abc" and not yet executed. -/
def issued : State := { ready [(1, octets 3 0x616263)] [] 0 0 false with lcmd := 0x00004481, cmd := 0x00004481 }

/-- An idle device with SEL = 3 and OS3 = 41 42, OSPTR at its end. -/
def atEnd : State := { State.reset.setOS 3 [0x41, 0x42] with sel := 3, osptr := 2 }

/-- I1. -/
theorem test_issue_after_reset_illegal :
    (nx (step (State.reset.withFetchWord 32 0))).map (fun t => (t.status.toWord, errWord t.errcode, t.cmd)) =
      some (0x06, 5, 0) := by
  decide +kernel

/-- I2, I3 and I4. -/
theorem test_errors_after_reset :
    (nx (step (State.reset.withFetchWord 32 0x00004481))).map (fun t => (t.status.toWord, errWord t.errcode)) = some (0x06, 6) ∧
    (nx (step (State.reset.withFetchWord 32 0x000045C1))).map (fun t => (t.status.toWord, errWord t.errcode)) = some (0x06, 4) ∧
    (nx (step (State.reset.withFetchWord 32 0x20000000))).map (fun t => (t.status.toWord, errWord t.errcode)) = some (0x06, 5) := by
  decide +kernel

/-- I5: CMDOVF, the second word dropped. -/
theorem test_issue_while_busy :
    (hostWrite issued 0x14 0x00084013).map (fun t => (t.status.toWord, t.cmd, t.lcmd)) =
      some (0x11, 0x00004481, 0x00004481) := by
  decide +kernel

/-- I5: STATUS = 0x12 when the first command completes; the empty schedule is the engine's turn. -/
theorem test_completion_keeps_overflow :
    (nx (step { issued with status := { issued.status with cmdovf := true } })).map (·.status.toWord) = some 0x12 := by
  decide +kernel

/-- I6. -/
theorem test_param_while_busy :
    (hostWrite issued 0x18 5).map (fun t => (t.status.toWord, t.param0)) = some (0x21, 0) := by
  decide +kernel

/-- R446 and D10 on a read-only and a reserved offset while BUSY = 1; R82 on the same offsets with BUSY = 0. -/
theorem test_ignored_writes :
    (hostWrite issued 0x30 5).map (fun t => (t.status.toWord, t.ctiter)) = some (0x21, 0) ∧
    (hostWrite issued 0xFC 5).map (·.status.toWord) = some 0x21 ∧
    (hostWrite State.reset 0x30 5).map (fun t => (t.status.toWord, t.ctiter)) = some (0, 0) ∧
    (hostWrite State.reset 0xFC 5).map (·.status.toWord) = some 0 := by
  decide +kernel

/-- I7. -/
theorem test_osdata_read_while_busy :
    (hostRead { issued with sel := 1 } 0x2C).map (fun t => (t.status.toWord, t.readData, t.osptr)) = some (0x21, some 0, 0) := by
  decide +kernel

/-- I8. -/
theorem test_osdata_invalid_register :
    (hostWrite { State.reset with sel := 3 } 0x2C 0x41).map (fun t => (t.status.toWord, t.os 3)) = some (0x20, none) := by
  decide +kernel

/-- I9. -/
theorem test_oslen_too_long :
    (hostWrite { State.reset with sel := 3 } 0x24 1025).map (fun t => (t.status.toWord, t.os 3)) = some (0x20, none) := by
  decide +kernel

/-- I10, the third write. -/
theorem test_osdata_past_end :
    (hostWrite atEnd 0x2C 0x43).map (fun t => (t.status.toWord, t.osptr, t.os 3)) = some (0x20, 2, some [0x41, 0x42]) := by
  decide +kernel

/-- I10, the second write; bits 31:8 are ignored (R80). -/
theorem test_osdata_write :
    (hostWrite { State.reset.setOS 3 [0, 0] with sel := 3, osptr := 1 } 0x2C 0xFFFFFF42).map (fun t => (t.osptr, t.os 3)) =
      some (2, some [0x00, 0x42]) := by
  decide +kernel

/-- I11. -/
theorem test_status_w1c :
    (hostWrite { State.reset with status := ⟨false, true, true, false, true, true⟩, errcode := some .range } 0x0C 0x30).map
      (·.status.toWord) = some 0x06 := by
  decide +kernel

/-- I12 and I13. -/
theorem test_irq :
    ({ State.reset with ctrl := ⟨true, false⟩, status := ⟨false, true, false, false, false, false⟩ } : State).irq = true ∧
    (hostWrite { State.reset with ctrl := ⟨true, false⟩, status := ⟨false, true, false, false, false, false⟩ } 0x0C 2).map (·.irq) =
      some false ∧
    ({ State.reset with status := ⟨false, true, false, false, false, false⟩ } : State).irq = false := by
  decide +kernel

/-- I14. -/
theorem test_clrall :
    (hostWrite { (atEnd.setN 7 9) with ctrl := ⟨false, true⟩ } 0x08 5).map
      (fun t => (t.ctrl.toWord, t.os 3, t.n 7, t.osptr)) = some (1, none, none, 0) := by
  decide +kernel

/-- P5 lines 1 and 2. -/
theorem test_id_caps :
    (hostRead State.reset 0x00).bind (·.readData) = some 0x43524531 ∧ (hostRead State.reset 0x04).bind (·.readData) = some 1024 := by
  decide +kernel

/-- P5 line 16 (an invalid register), and R78 for OS3 = 41 42. -/
theorem test_oslen_read :
    (hostRead { atEnd with sel := 2 } 0x24).bind (·.readData) = some 0 ∧
    (hostRead atEnd 0x24).bind (·.readData) = some 0x80000002 := by
  decide +kernel

/-- I15, the second command. -/
theorem test_cteq_invalid_operand :
    (nx (exec (.cteq 1 2) { ready [(1, [1])] [] 0 0 false with ctiter := 32 })).map
      (fun t => (t.status.toWord, errWord t.errcode, t.ctiter)) = some (0x06, 6, 32) := by
  decide +kernel

/-- P1 line 3: `run hash.sha256 os2, os1` with one poll before the engine's step (R109). -/
theorem test_run_word :
    hostRun Config.reference (.hash (some .sha256) 2 1) 1 =
      [mmioWrite Config.reference 0x14 0x00004481, mmioRead Config.reference 0x0C, .engine, mmioRead Config.reference 0x0C] := by
  decide +kernel
/-! ### Witnesses: for every obligation with hypotheses, a state and operands that meet them -/

/-- `issued` with the turns `ts` to come. -/
def issuedWith (ts : List Turn) : State := { issued with schedule := ts }

/-- An idle device with the turns `ts` to come. -/
def idleWith (ts : List Turn) : State := { State.reset with schedule := ts }

/-- A device whose window lies at 256. -/
def at256 (ts : List Turn) : State := { State.reset with cfg := { Config.reference with baseAddr := 256 }, schedule := ts }

theorem witness_EncodeInvertsDecode : decode 0x0007FF81 = some (.hash (some .sha512_256) 31 31) := by decide

theorem witness_EngineRunsDecodedCommand :
    (issuedWith [.engine]).status.busy = true ∧ decode (issuedWith [.engine]).lcmd = some (.hash (some .sha256) 2 1) ∧
    (issuedWith [.engine]).schedule = .engine :: [] ∧ (issuedWith []).schedule = [] := by decide

theorem witness_IllegalWordCompletes :
    let s := { issuedWith [.engine] with lcmd := 0xE0000013 }
    s.status.busy = true ∧ s.schedule = .engine :: [] ∧ (CmdFields.ofWord s.lcmd).wellFormed = false := by decide +kernel

theorem witness_FetchWordRunsNext : decodeTableWord 32 0x005A8013 = some (.cteq 10 11) := by decide

theorem witness_EveryIssuedCommandCompletes :
    engineNext (issuedWith []) ∧ engineNext (issuedWith [.engine]) ∧ (issuedWith []).status.busy = true ∧
    engineNext State.reset ∧ State.reset.status.busy = false :=
  ⟨.inl rfl, .inr rfl, rfl, .inl rfl, rfl⟩

theorem witness_BusyCommandCompletesInBoundedTurns :
    let s := issuedWith [mmioRead Config.reference 0x0C, mmioWrite Config.reference 0x14 0]
    s.status.busy = true ∧ ∀ x ∈ s.schedule, x ≠ .reset ∧ ∀ a, x = .host a → (a.offset s.cfg).isSome := by
  refine ⟨rfl, ?_⟩
  simp only [issuedWith, mmioRead, mmioWrite, List.mem_cons, List.not_mem_nil, or_false, forall_eq_or_imp, forall_eq, Turn.host.injEq,
    reduceCtorEq, ne_eq, not_false_eq_true, true_and, forall_eq']
  decide

theorem witness_AccessAdmission_first :
    (AccessSize.word = .word ∧ 256 ≤ 256 ∧ 256 ≤ 256 + 0xFC ∧ (256 - 256) % 4 = 0) ∧
    (at256 [.host (.read .word 256)]).schedule = .host (.read .word 256) :: [] := by decide

theorem witness_AccessAdmission_last :
    ((at256 []).cfg.baseAddr ≤ 508 ∧ 508 ≤ (at256 []).cfg.baseAddr + 0xFC ∧ (508 - (at256 []).cfg.baseAddr) % 4 = 0) ∧
    (at256 [.host (.write .word 508 1)]).schedule = .host (.write .word 508 1) :: [] := by decide

theorem witness_AccessAdmission_refused :
    (nx (step (at256 [.host (.read .byte 256)])) = none ∧ nx (step (at256 [.host (.read .word 257)])) = none) ∧
    nx (step (at256 [.host (.read .word 252)])) = none ∧ nx (step (at256 [.host (.read .word 512)])) = none := by decide

theorem witness_ResetSatisfiesInvariant : Config.reference.ok = true := by decide

theorem witness_StepKeepsInvariant : State.reset.Inv ∧ step State.reset = .next State.reset := ⟨by decide, rfl⟩

theorem witness_ErrorsArePrecise :
    State.reset.status.busy = false ∧
    ((nx (step (State.reset.withFetchWord 32 (0 : Word).toNat))).bind (·.errcode)) = some .illegalCmd ∧
    ((nx (step (State.reset.withFetchWord 32 (0x4481 : Word).toNat))).bind (·.errcode)) = some .invalidOperand := by decide

theorem witness_ErrorsByOpcode :
    State.reset.osFit ∧ State.reset.nFit ∧ State.reset.errcode = none ∧
    ((nx (exec (.os2ip 0 1) State.reset)).bind (·.errcode)) = some .invalidOperand := by decide

theorem witness_UnsupportedAlgComesBeforeOperands : algOf (.emsa15Ver none 1 2) = some none := by decide

theorem witness_InvalidOperandExactly_invalid :
    algOf (.hash (some .sha1) 2 1) ≠ some none ∧ ¬ operandsValid (.hash (some .sha1) 2 1) State.reset :=
  ⟨by decide, fun h => absurd (h.2.1 1 (by decide)) (by decide)⟩

/-- A valid block that ends at N31: 27 + 5 = 32. -/
def lastBlock : State := ready [] [(1, 5), (27, 7), (28, 11), (29, 1), (30, 1), (31, 1)] 0 0 false

theorem witness_InvalidOperandExactly_valid :
    algOf (.rsadpCrt 4 1 27) ≠ some none ∧ operandsValid (.rsadpCrt 4 1 27) lastBlock ∧ lastBlock.errcode = none ∧
    (nx (exec (.rsadpCrt 4 1 27) lastBlock)).isSome :=
  ⟨by decide, ⟨fun _ h => by cases h; decide, by decide, by decide⟩, rfl, by decide +kernel⟩

theorem witness_CommandFrame :
    (nx (exec (.hash (some .sha256) 2 1) issued)).isSome ∧ destOS (.hash (some .sha256) 2 1) ≠ some 1 ∧
    destN (.hash (some .sha256) 2 1) ≠ some 2 := by decide +kernel

theorem witness_HashWritesDigest : issued.os 1 = some (octets 3 0x616263) := by decide

theorem witness_PaddingIsLeast :
    (List.replicate 55 (0x61 : Byte)).length + 1 + 8 ≤ 64 ∧ 64 < (List.replicate 56 (0x61 : Byte)).length + 1 + 8 ∧
    (List.replicate 111 (0x61 : Byte)).length + 1 + 16 ≤ 128 ∧ 128 < (List.replicate 112 (0x61 : Byte)).length + 1 + 16 := by decide

theorem witness_ScheduleRecurrences :
    (List.replicate 16 (0 : BitVec 32)).length = 16 ∧ (List.replicate 16 (0 : BitVec 64)).length = 16 ∧ 16 ≤ 79 ∧ 79 < 80 := by decide

/-- A device of the reference size with a seed in OS3 and maskLen `n`. -/
def seeded (n : Nat) : State := ready [(3, [0x66])] [] n 0 false

theorem witness_Mgf1WritesMask :
    (seeded 0).os 3 = some [0x66] ∧ (seeded 1024).lparam0.toNat ≤ (seeded 1024).cfg.osMaxLen ∧
    (seeded 1025).cfg.osMaxLen < (seeded 1025).lparam0.toNat := by decide

/-- A device with `x` in N1 and the length `n` latched. -/
def withN (x n : Nat) : State := ready [] [(1, x)] n 0 false

theorem witness_I2ospWritesOctets :
    (withN 255 1).n 1 = some 255 ∧ 255 < 256 ^ (withN 255 1).lparam0.toNat ∧
    256 ^ (withN 256 1).lparam0.toNat ≤ 256 ∧ 0 < 256 ^ (withN 0 0).lparam0.toNat ∧
    (withN 1 1024).lparam0.toNat ≤ (withN 1 1024).cfg.osMaxLen ∧ (withN 1 1025).cfg.osMaxLen < (withN 1 1025).lparam0.toNat := by
  decide +kernel

theorem witness_Os2ipWritesInteger :
    (ready [(1, List.replicate 1024 0xff)] [] 0 0 false).os 1 = some (List.replicate 1024 0xff) ∧
    (List.replicate 1024 (0xff : Byte)).length ≤ (ready [] [] 0 0 false).cfg.osMaxLen := by decide +kernel

theorem witness_ConversionRoundTrip :
    255 < 256 ^ 1 ∧ 256 ^ 1 ≤ 256 ∧ ({ issued with param0 := 3 } : State).os 1 = some (octets 3 0x616263) ∧
    (octets 3 0x616263).length ≤ issued.cfg.osMaxLen ∧ ({ issued with param0 := 3 } : State).param0.toNat = (octets 3 0x616263).length := by
  decide

theorem witness_ModularPowerExact : modExp 0 0 1 = 0 ∧ modExp 0 0 3233 = 1 ∧ 1 ≤ 1 := by decide +kernel

theorem witness_ExponentPrimitives :
    let s (x : Nat) := ready [] [(1, x), (2, 3233), (3, 17)] 0 0 false
    (s 3232).n 1 = some 3232 ∧ (s 3232).n 2 = some 3233 ∧ (s 3232).n 3 = some 17 ∧ 3233 < 256 ^ (s 0).cfg.osMaxLen ∧ 3232 < 3233 ∧
    (s 3233).n 1 = some 3233 ∧ 3233 ≤ 3233 := by decide +kernel

theorem witness_CrtKeyBlock :
    [61, 53, 53, 49, 38].length = 5 + 3 * 0 ∧ [11, 13, 3, 7, 6, 17, 7, 5].length = 5 + 3 * 1 ∧
    32 < (28 : RegIdx).val + 5 + 3 * lastBlock.lparam0.toNat ∧
    (4 < 5 + 3 * lastBlock.lparam0.toNat ∧ lastBlock.n (regAt ((22 : RegIdx).val + 4)) = none) := by decide

theorem witness_CrtPrimitives_value :
    (27 : RegIdx).val + 5 + 3 * lastBlock.lparam0.toNat ≤ 32 ∧ [7, 11, 1, 1, 1].length = 5 + 3 * lastBlock.lparam0.toNat ∧
    lastBlock.n 1 = some 5 ∧ (∀ j : Fin 5, lastBlock.n (regAt ((27 : RegIdx).val + j)) = some ([7, 11, 1, 1, 1].getD j 0)) ∧
    5 < (keyOf [7, 11, 1, 1, 1]).primes.prod ∧ crtValue 5 (keyOf [7, 11, 1, 1, 1]) < 256 ^ lastBlock.cfg.osMaxLen ∧
    (keyOf [7, 0, 1, 1, 1]).primes.prod ≤ 5 := by decide +kernel

/-- A device of the smallest size, OS_MAXLEN = 64, with inconsistent key material whose CRT value needs 599 bits. -/
def largeCrt : State :=
  { ready [] [(1, 2 ^ 511), (27, 2 ^ 300), (28, 2 ^ 300 + 1), (29, 1), (30, 1), (31, 2 ^ 88)] 0 0 false with
    cfg := { Config.reference with osMaxLen := 64 } }

theorem witness_CrtPrimitives_capacity :
    let vs := [2 ^ 300, 2 ^ 300 + 1, 1, 1, 2 ^ 88]
    largeCrt.cfg.ok = true ∧ largeCrt.nFit ∧ largeCrt.n 1 = some (2 ^ 511) ∧
    (∀ j : Fin 5, largeCrt.n (regAt ((27 : RegIdx).val + j)) = some (vs.getD j 0)) ∧
    2 ^ 511 < (keyOf vs).primes.prod ∧ 256 ^ largeCrt.cfg.osMaxLen ≤ crtValue (2 ^ 511) (keyOf vs) := by decide +kernel

theorem witness_GarnerCombination :
    0 < 11 ∧ 0 < (⟨17, 7, 5⟩ : Triplet).r ∧ 2430 < (keyOf [11, 13, 3, 7, 6, 17, 7, 5]).primes.prod := by decide

theorem witness_CrtMatchesExponentForm_two :
    (keyOf [61, 53, 53, 49, 38]).Consistent 3233 17 2753 ∧ (∀ r ∈ (keyOf [61, 53, 53, 49, 38]).primes, r ≠ 2) ∧ 3232 < 3233 := by
  refine ⟨⟨?_, by decide, by decide, by decide, by decide, by decide, trivial, by decide⟩, by decide, by decide⟩
  simp only [keyOf, tripletsOf, CrtKey.primes, List.map_nil, List.mem_cons, List.not_mem_nil, or_false, forall_eq_or_imp, forall_eq]
  norm_num

theorem witness_CrtMatchesExponentForm_three :
    (keyOf [11, 13, 3, 7, 6, 17, 7, 5]).Consistent 2431 7 103 ∧ (∀ r ∈ (keyOf [11, 13, 3, 7, 6, 17, 7, 5]).primes, r ≠ 2) ∧
    2430 < 2431 := by
  refine ⟨⟨?_, by decide, by decide, by decide, by decide, by decide, ⟨by decide, by decide, trivial⟩, by decide⟩, by decide, by decide⟩
  simp only [keyOf, tripletsOf, CrtKey.primes, List.map_cons, List.map_nil, List.mem_cons, List.not_mem_nil, or_false,
    forall_eq_or_imp, forall_eq]
  norm_num

/-- A device with M in OS1, the empty label in OS2 and a source of `n` octets in OS9. -/
def padding (m : OctetString) (n k sLen : Nat) (rng : Bool) : State :=
  ready [(1, m), (2, []), (9, List.replicate n 0x11)] [] k sLen rng

theorem witness_OaepEncoderWrites :
    ((padding [] 0 42 0 false).os 1 = some [] ∧ (padding [] 0 42 0 false).os 2 = some []) ∧
    ((padding [] 0 42 0 false).lrngsrc = false ∧ 42 ≤ (padding [] 0 42 0 false).cfg.osMaxLen ∧ ([] : OctetString).length + 2 * hLen .sha1 + 2 ≤ 42) ∧
    ((padding [] 20 42 0 true).lrngsrc = true ∧ (padding [] 20 42 0 true).os 9 = some (List.replicate 20 0x11) ∧
      hLen .sha1 ≤ (List.replicate 20 (0x11 : Byte)).length ∧ (List.replicate 19 (0x11 : Byte)).length < hLen .sha1) ∧
    ((padding [] 0 1025 0 false).cfg.osMaxLen < 1025 ∧ 41 < ([] : OctetString).length + 2 * hLen .sha1 + 2) := by decide +kernel

theorem witness_Eme15EncoderWrites :
    ((padding [1, 2] 0 13 0 false).os 1 = some [1, 2] ∧ (padding [1, 2] 0 13 0 false).lrngsrc = false ∧ [1, 2].length + 11 ≤ 13) ∧
    ((padding [1, 2] 8 13 0 true).os 9 = some (List.replicate 8 0x11) ∧ 13 - [1, 2].length - 3 ≤ (List.replicate 8 (0x11 : Byte)).length ∧
      (∀ b ∈ (List.replicate 8 (0x11 : Byte)).take 8, b ≠ 0) ∧ (List.replicate 7 (0x11 : Byte)).length < 8 ∧
      (0 : Byte) ∈ ([0x11, 0] : OctetString).take 8) ∧
    (13 ≤ (padding [1, 2] 0 13 0 false).cfg.osMaxLen ∧ 12 < [1, 2].length + 11) := by decide +kernel

theorem witness_DecodersWriteMessage_oaep :
    let em := oaepEncodeWith .sha1 [0x68] [] 43 (List.replicate 20 0)
    let s := ready [(2, []), (3, em)] [] 43 0 false
    s.os 3 = some em ∧ s.os 2 = some [] ∧
    (oaepDecode .sha1 em [] s.lparam0.toNat).toOption = some [0x68] := by decide +kernel

theorem witness_DecodersWriteMessage_eme15 :
    let em : OctetString := octets 13 0x00021111111111111111006869
    let s := ready [(3, em)] [] 13 0 false
    s.os 3 = some em ∧ (eme15Decode em s.lparam0.toNat).toOption = some [0x68, 0x69] := by decide +kernel

theorem witness_UniformDecryptionError :
    let s := ready [(2, []), (3, [])] [] 42 0 false
    s.os 3 = some [] ∧ s.os 2 = some [] ∧ (oaepDecode .sha1 [] [] s.lparam0.toNat).toOption = none ∧
    (eme15Decode [] s.lparam0.toNat).toOption = none := by decide +kernel

theorem witness_EncryptionRoundTrip :
    ([] : OctetString).length + 2 * hLen .sha512 + 2 ≤ 130 ∧ (List.replicate 64 (0 : Byte)).length = hLen .sha512 ∧
    ([] : OctetString).length + 11 ≤ 11 ∧ (List.replicate 8 (1 : Byte)).length = 11 - ([] : OctetString).length - 3 ∧
    ∀ b ∈ List.replicate 8 (1 : Byte), b ≠ 0 := by decide

theorem witness_PssEncoderWrites :
    ((padding [] 0 170 0 false).os 1 = some [] ∧ (padding [] 0 170 0 false).lrngsrc = false ∧ (170 + 7) / 8 ≤ 1024 ∧
      hLen .sha1 + 0 + 2 ≤ (170 + 7) / 8) ∧
    ((padding [] 3 193 3 true).os 9 = some (List.replicate 3 0x11) ∧ hLen .sha1 + 3 + 2 ≤ (193 + 7) / 8 ∧
      3 ≤ (List.replicate 3 (0x11 : Byte)).length ∧ (List.replicate 2 (0x11 : Byte)).length < 3) ∧
    ((padding [] 0 8193 0 false).cfg.osMaxLen < (8193 + 7) / 8 ∧ (168 + 7) / 8 < hLen .sha1 + 0 + 2) := by decide +kernel

theorem witness_PssVerifierAcceptsExactly :
    issued.os 1 = some (octets 3 0x616263) ∧ hLen .sha1 + 0 + 2 ≤ pssEmLen 170 := by decide

theorem witness_Emsa15EncoderWrites :
    (padding [] 0 46 0 false).os 1 = some [] ∧ (padding [] 0 46 0 false).lparam0.toNat ≤ (padding [] 0 46 0 false).cfg.osMaxLen ∧
    (derPrefix .sha1 ++ hashOf .sha1 []).length + 11 ≤ 46 ∧ 45 < (derPrefix .sha1 ++ hashOf .sha1 []).length + 11 ∧
    (padding [] 0 1025 0 false).cfg.osMaxLen < (padding [] 0 1025 0 false).lparam0.toNat := by decide +kernel

theorem witness_SignatureRoundTrip :
    let em := emsa15EncodeRaw .sha1 [] 46
    let s := ready [(1, []), (2, em)] [] 46 0 false
    hLen .sha1 + ([] : OctetString).length + 2 ≤ pssEmLen 170 ∧ s.os 1 = some [] ∧ s.lparam0.toNat ≤ s.cfg.osMaxLen ∧
    tLen .sha1 + 11 ≤ s.lparam0.toNat ∧ s.os 2 = some em := by decide +kernel

theorem witness_TwoStrings :
    let s := ready [(1, []), (2, [1])] [] 0 0 false
    s.os 1 = some [] ∧ s.os 2 = some [1] := by decide

theorem witness_OnlyCompareWritesCtiter :
    let s := { ready [(1, []), (2, [1])] [] 0 0 false with lcmd := 0x00104013, ctiter := 7 }
    (nx (step s)).map (·.ctiter) = some 1 ∧ decode s.lcmd = some (.cteq 1 2) := by decide +kernel

theorem witness_IssueLatchesCommand :
    (issuedWith [mmioWrite Config.reference 0x14 1]).schedule = mmioWrite issued.cfg 0x14 1 :: [] ∧ issued.status.busy = true ∧
    (idleWith [mmioWrite Config.reference 0x14 1]).status.busy = false := by decide

theorem witness_BufferPortWrites :
    atEnd.status.busy = false ∧
    ({ atEnd with schedule := [mmioWrite Config.reference 0x24 0x80000400] } : State).schedule = mmioWrite atEnd.cfg 0x24 0x80000400 :: [] ∧
    (0x80000400 : Word).toNat % 2 ^ 31 ≤ atEnd.cfg.osMaxLen ∧ atEnd.cfg.osMaxLen < (0x80000401 : Word).toNat % 2 ^ 31 ∧
    (atEnd.os atEnd.sel = some [0x41, 0x42] ∧ (1 : Word).toNat < 2 ∧ 2 ≤ atEnd.osptr.toNat) := by decide +kernel

theorem witness_BufferPortReads :
    ({ atEnd with osptr := 1, schedule := [mmioRead Config.reference 0x2C] } : State).schedule = mmioRead atEnd.cfg 0x2C :: [] ∧
    ([0x41, 0x42] : OctetString)[({ atEnd with osptr := 1 } : State).osptr.toNat]? = some 0x42 ∧
    State.reset.os State.reset.sel = none ∧ [0x41, 0x42].length ≤ atEnd.osptr.toNat ∧ issued.status.busy = true := by decide

theorem witness_LoadFillsRegister :
    State.reset.cfg.ok = true ∧ State.reset.status.busy = false ∧ (List.replicate 1024 (0 : Byte)).length ≤ State.reset.cfg.osMaxLen := by
  decide +kernel

theorem witness_BusyDropsHostWrites :
    let s := issuedWith [mmioWrite Config.reference 0x2C 1]
    s.status.busy = true ∧ s.schedule = mmioWrite s.cfg 0x2C 1 :: [] ∧ 0x2C % 4 = 0 ∧ 0x2C ≤ 0xFC ∧ 0x2C ≠ 0x0C ∧ 0x2C ≠ 0x14 ∧
    (nx (step s)).isSome := by decide

theorem witness_BusyDropsHostWrites_edges :
    (issuedWith [mmioWrite Config.reference 0x00 1]).schedule = mmioWrite issued.cfg 0x00 1 :: [] ∧ 0x00 % 4 = 0 ∧
    (issuedWith [mmioWrite Config.reference 0xFC 1]).schedule = mmioWrite issued.cfg 0xFC 1 :: [] ∧ 0xFC % 4 = 0 ∧ 0xFC ≤ 0xFC ∧
    issued.status.busy = true := by decide

theorem witness_BusyDropsHostWrites_status :
    let s := issuedWith [mmioWrite Config.reference 0x0C 0x32]
    s.status.busy = true ∧ s.schedule = mmioWrite s.cfg 0x0C 0x32 :: [] ∧ (nx (step s)).map (·.status.toWord) = some 1 := by decide

theorem witness_BusyDropsHostWrites_cmd :
    let s := issuedWith [mmioWrite Config.reference 0x14 1]
    s.status.busy = true ∧ s.schedule = mmioWrite s.cfg 0x14 1 :: [] := by decide

theorem witness_ControlRegisterWrites :
    let s (v : Word) := idleWith [mmioWrite Config.reference 0x08 v]
    (s 7).status.busy = false ∧ (s 7).schedule = mmioWrite (s 7).cfg 0x08 7 :: [] ∧ (7 : Word).getLsbD 2 = true ∧
    (3 : Word).getLsbD 2 = false := by decide

/-- The first reads of the window, its last, a valid and an invalid register under OSLEN, and the first and last ignored writes. -/
theorem witness_ReadsAndIgnoredWrites :
    (∀ off ∈ [0x00, 0x04, 0x08, 0x0C, 0x10, 0x14, 0x18, 0x1C, 0x20, 0x24, 0x28, 0x30, 0x34, 0xFC],
      (idleWith [mmioRead Config.reference off]).schedule = mmioRead State.reset.cfg off :: [] ∧ off % 4 = 0 ∧ off ≤ 0xFC) ∧
    (0x34 ≤ 0x34 ∧ 0x34 ≤ 0xFC) ∧ State.reset.os State.reset.sel = none ∧ atEnd.os atEnd.sel = some [0x41, 0x42] ∧
    (∀ off ∈ [0x00, 0x30, 0x34, 0xFC], (issuedWith [mmioWrite Config.reference off 1]).schedule = mmioWrite issued.cfg off 1 :: [] ∧
      (off ∈ [0x00, 0x04, 0x10, 0x30] ∨ 0x34 ≤ off)) := by decide

theorem witness_InterruptLevel :
    (nx (exec (.hash (some .sha256) 2 1) issued)).isSome ∧
    (nx (step (idleWith [mmioWrite Config.reference 0x0C 2]))).isSome ∧ (nx (step (idleWith [mmioWrite Config.reference 0x14 2]))).isSome ∧
    (idleWith []).status.busy = false ∧ (nx (step (issuedWith [.reset]))).isSome := by decide +kernel

theorem witness_HardwareReset : (issuedWith [.reset]).schedule = .reset :: [] := rfl

theorem witness_CommandBeforeOperands : (∀ r, State.reset.os r = none) ∧ ∀ r, State.reset.n r = none := by decide

theorem witness_ValidBitsChangeOnly :
    let s := { atEnd with schedule := [mmioWrite Config.reference 0x08 4] }
    (nx (step s)).isSome ∧ (s.os 3).isSome ∧ (nx (step s)).map (·.os 3) = some none ∧
    issued.os 2 = none ∧ ((nx (step issued)).bind (·.os 2)).isSome := by decide +kernel

end Sys2Proof.Tests
end

section
/-! Steps and host accesses inverted: what a step that answers a next state has done, and what an admitted access may change. -/

namespace Sys2Proof.Machine

/-! ### Taking a turn off the schedule -/

theorem nextTurn_snd (s : State) : s.nextTurn.2 = afterTurn s s.schedule.tail := by
  cases h : s.schedule with
  | nil => rw [nextTurn_nil h, List.tail_nil, ← h]; rfl
  | cons x xs => rw [nextTurn_cons h]; rfl

theorem eq_afterTurn_of_nextTurn {s u : State} {x : Turn} (h : s.nextTurn = (x, u)) : u = afterTurn s s.schedule.tail := by
  rw [← nextTurn_snd, h]

theorem head?_of_nextTurn {s u : State} {x : Turn} (h : s.nextTurn = (x, u)) (hx : x ≠ .engine) :
    s.schedule.head? = some x := by
  cases hs : s.schedule with
  | nil => rw [nextTurn_nil hs] at h; exact absurd (congrArg Prod.fst h).symm hx
  | cons y ys => rw [nextTurn_cons hs] at h; exact congrArg some (congrArg Prod.fst h)

theorem engineNext_of_nextTurn {s u : State} (h : s.nextTurn = (.engine, u)) : engineNext s := by
  cases hs : s.schedule with
  | nil => exact .inl hs
  | cons y ys => rw [nextTurn_cons hs] at h; exact .inr (hs ▸ congrArg some (congrArg Prod.fst h))

/-! ### What an error-free completion writes -/

/-- An error-free completion leaves an OS register or, if it is the command's destination, puts a string within capacity there. -/
theorem DoneShape.os_cases {i : Instr} {s : State} {d : Done} (h : DoneShape i s d) (r : RegIdx) :
    (s.completeOk d).os r = s.os r ∨
    (destOS i = some r ∧ ∃ v, (s.completeOk d).os r = some v ∧ (s.cfg.ok = true → s.osFit → v.length ≤ s.cfg.osMaxLen)) := by
  obtain ⟨⟨rd, v, hrd, -, hd, hv⟩ | ⟨rd, v, -, -, hd, -⟩ | ⟨-, -, hd, -⟩, -⟩ := h
  · by_cases hr : r = rd
    · subst hr
      exact .inr ⟨hrd, v, by rw [os_completeOk, hd]; simp [State.applyWrite], hv⟩
    · exact .inl (by rw [os_completeOk, hd]; exact os_setOS_ne s v hr)
  · exact .inl (by rw [os_completeOk, hd]; rfl)
  · exact .inl (by rw [os_completeOk, hd]; rfl)

/-- An error-free completion leaves an N register or, if it is the command's destination, puts an integer within capacity there. -/
theorem DoneShape.n_cases {i : Instr} {s : State} {d : Done} (h : DoneShape i s d) (r : RegIdx) :
    (s.completeOk d).n r = s.n r ∨
    (destN i = some r ∧ ∃ v, (s.completeOk d).n r = some v ∧ v < 256 ^ s.cfg.osMaxLen) := by
  obtain ⟨⟨rd, v, -, -, hd, -⟩ | ⟨rd, v, hrd, -, hd, hv⟩ | ⟨-, -, hd, -⟩, -⟩ := h
  · exact .inl (by rw [n_completeOk, hd]; rfl)
  · by_cases hr : r = rd
    · subst hr
      exact .inr ⟨hrd, v, by rw [n_completeOk, hd]; simp [State.applyWrite], hv⟩
    · exact .inl (by rw [n_completeOk, hd]; exact n_setN_ne s v hr)
  · exact .inl (by rw [n_completeOk, hd]; rfl)

/-! ### What reset leaves of the register files -/

@[simp] theorem os_hardReset (s : State) (r : RegIdx) : s.hardReset.os r = none := os_resetWith s.cfg r

@[simp] theorem n_hardReset (s : State) (r : RegIdx) : s.hardReset.n r = none := n_resetWith s.cfg r

/-! ### What a host access changes -/

/-- `t` shows the outcome `s` shows, but that DONE may have been acknowledged, and has the parameters, the latched word and CTITER
of `s`. -/
structure KeepsOutcome (s t : State) : Prop where
  cfg     : t.cfg = s.cfg
  errcode : t.errcode = s.errcode
  cmd     : t.cmd = s.cmd
  lcmd    : t.lcmd = s.lcmd
  ctiter  : t.ctiter = s.ctiter
  busy    : t.status.busy = s.status.busy
  done    : t.status.done = true → s.status.done = true
  err     : t.status.err = s.status.err
  result  : t.status.result = s.status.result

/-- The fields a host access may write beside the register files, issue and acknowledge set apart. -/
theorem keepsOutcome_frame (s : State) (osRegs : Vector (Option OctetString) 32) (nRegs : Vector (Option Nat) 32) (ctrl : Ctrl)
    (param0 param1 osptr : Word) (sel : RegIdx) (readData : Option Word) (cmdovf hosterr : Bool) :
    KeepsOutcome s { s with
      osRegs := osRegs, nRegs := nRegs, ctrl := ctrl, param0 := param0, param1 := param1, osptr := osptr, sel := sel
      readData := readData, status := { s.status with cmdovf := cmdovf, hosterr := hosterr } } :=
  ⟨rfl, rfl, rfl, rfl, rfl, rfl, id, rfl, rfl⟩

/-- What the access `a` may turn `s` into: a command is issued, or the outcome is kept and the files are kept, cleared by CLRALL,
given a zero string at SEL by an OSLEN write, or given another string of the same length at SEL by an OSDATA write. -/
inductive HostEffect (s : State) (a : HostAccess) (t : State) : Prop where
  | issued (w : Word) (eq : t = s.acceptCommand w)
  | kept (o : KeepsOutcome s t) (os : ∀ r, t.os r = s.os r) (n : ∀ r, t.n r = s.n r)
  | cleared (v : Word) (o : KeepsOutcome s t) (write : Turn.host a = mmioWrite s.cfg 0x08 v) (clrall : v.getLsbD 2 = true)
      (idle : s.status.busy = false) (os : ∀ r, t.os r = none) (n : ∀ r, t.n r = none)
  | resized (v : Word) (len : Nat) (o : KeepsOutcome s t) (write : Turn.host a = mmioWrite s.cfg 0x24 v)
      (idle : s.status.busy = false) (fits : len ≤ s.cfg.osMaxLen)
      (os : ∀ r, t.os r = if r = s.sel then some (zeros len) else s.os r) (n : ∀ r, t.n r = s.n r)
  | poked (old new : OctetString) (o : KeepsOutcome s t) (valid : s.os s.sel = some old) (length : new.length = old.length)
      (os : ∀ r, t.os r = if r = s.sel then some new else s.os r) (n : ∀ r, t.n r = s.n r)

theorem mmioRegAt_eq_ctrl {off : Nat} : mmioRegAt off = .ctrl ↔ off = 0x08 := by
  unfold mmioRegAt; split <;> simp_all

theorem mmioRegAt_eq_oslen {off : Nat} : mmioRegAt off = .oslen ↔ off = 0x24 := by
  unfold mmioRegAt; split <;> simp_all

/-- An admitted write is the write of the register map at its offset. -/
theorem host_write_eq_mmioWrite {c : Config} {size : AccessSize} {addr off : Nat} {v : Word}
    (h : HostAccess.offset c (.write size addr v) = some off) : Turn.host (.write size addr v) = mmioWrite c off v := by
  simp only [HostAccess.offset, admittedOffset] at h
  split at h
  case isTrue hadm =>
    obtain ⟨rfl, hbase, -, -⟩ := hadm
    simp only [Option.some.injEq] at h
    rw [mmioWrite, ← h, Nat.add_sub_cancel' hbase]
  case isFalse => cases h

/-- An access that leaves the register files, issue and acknowledge set apart. -/
theorem effect_of_frame (s : State) (a : HostAccess) (ctrl : Ctrl) (param0 param1 osptr : Word) (sel : RegIdx)
    (readData : Option Word) (cmdovf hosterr : Bool) :
    HostEffect s a { s with
      ctrl := ctrl, param0 := param0, param1 := param1, osptr := osptr, sel := sel
      readData := readData, status := { s.status with cmdovf := cmdovf, hosterr := hosterr } } :=
  .kept (keepsOutcome_frame ..) (fun _ => rfl) fun _ => rfl

theorem hostError_effect (s : State) (a : HostAccess) : HostEffect s a s.hostError :=
  effect_of_frame ..

theorem writeStatus_effect (s : State) (a : HostAccess) (v : Word) : HostEffect s a (s.writeStatus v) :=
  .kept ⟨rfl, rfl, rfl, rfl, rfl, rfl, fun h => (Bool.and_eq_true_iff.1 h).1, rfl, rfl⟩ (fun _ => rfl) fun _ => rfl

theorem writeCtrl_effect {s : State} {a : HostAccess} {v : Word} (hb : s.status.busy = false)
    (ha : Turn.host a = mmioWrite s.cfg 0x08 v) : HostEffect s a (s.writeCtrl v) := by
  unfold State.writeCtrl
  split
  case isTrue hv =>
    exact .cleared v (keepsOutcome_frame ..) ha hv hb (os_clearAll _) (n_clearAll _)
  case isFalse => exact effect_of_frame ..

theorem writeOslen_effect {s : State} {a : HostAccess} {v : Word} (hb : s.status.busy = false)
    (ha : Turn.host a = mmioWrite s.cfg 0x24 v) : HostEffect s a (s.writeOslen v) := by
  unfold State.writeOslen
  dsimp only
  split
  case isTrue => exact hostError_effect s a
  case isFalse hlen =>
    exact .resized v _ (keepsOutcome_frame ..) ha hb (not_lt.1 hlen) (fun r => os_setOS s s.sel r _) fun _ => rfl

theorem writeOsdata_effect (s : State) (a : HostAccess) (v : Word) : HostEffect s a (s.writeOsdata v) := by
  unfold State.writeOsdata
  split
  case h_1 str hstr =>
    split
    case isTrue =>
      exact .poked str _ (keepsOutcome_frame ..) hstr List.length_set (fun r => os_setOS s s.sel r _) fun _ => rfl
    case isFalse => exact hostError_effect s a
  case h_2 => exact hostError_effect s a

theorem writeReg_effect {s : State} {a : HostAccess} {off : Nat} {v : Word} (ha : Turn.host a = mmioWrite s.cfg off v) :
    HostEffect s a (s.writeReg (mmioRegAt off) v) := by
  cases hb : s.status.busy with
  | true =>
    obtain ⟨-, h⟩ | ⟨-, h⟩ | ⟨-, -, h⟩ := writeReg_of_busy (mmioRegAt off) v hb
    · rw [h]; exact effect_of_frame ..
    · rw [h]; exact writeStatus_effect s a v
    · rw [h]; exact hostError_effect s a
  | false =>
    cases hr : mmioRegAt off <;> simp only [State.writeReg, State.ignoredWrite, unlessBusy_of_idle _ hb]
    case ctrl => obtain rfl := mmioRegAt_eq_ctrl.1 hr; exact writeCtrl_effect hb ha
    case oslen => obtain rfl := mmioRegAt_eq_oslen.1 hr; exact writeOslen_effect hb ha
    case osdata => exact writeOsdata_effect s a v
    case status => exact writeStatus_effect s a v
    case cmd => exact .issued v (issue_of_idle v hb)
    all_goals exact effect_of_frame ..

/-- A read keeps the files and the outcome: OSDATA moves OSPTR or sets HOSTERR, every other read leaves the state. -/
theorem readReg_effect (s : State) (a : HostAccess) (r : MmioReg) (v : Option Word) :
    HostEffect s a { (s.readReg r).2 with readData := v } := by
  by_cases hr : r = .osdata
  · subst hr
    obtain ⟨d, -, -, h⟩ | ⟨-, h⟩ := readOsdata_cases s <;> simp only [State.readReg, h] <;>
      exact effect_of_frame ..
  · rw [readReg_state hr]
    exact effect_of_frame ..

/-- Everything an admitted access can do to the device. -/
theorem access_effect {s : State} {a : HostAccess} {off : Nat} (h : a.offset s.cfg = some off) :
    HostEffect s a (s.access a off) := by
  cases a with
  | read size addr => exact readReg_effect s _ _ _
  | write size addr v => exact writeReg_effect (host_write_eq_mmioWrite h)

/-! ### What a step has done -/

/-- How `t` can follow `s`, after the turn is off the schedule: the engine completed the latched command, it had nothing to do, an
admitted host access was performed, or the device was reset. An error-free completion is one of a decoded command and has its shape. -/
inductive Stepped (s t : State) : Prop where
  | completed (r : RunResult) (turn : engineNext s) (busy : s.status.busy = true)
      (eq : t = (afterTurn s s.schedule.tail).complete r)
      (shape : ∀ d, r = .ok d → ∃ i, decode s.lcmd = some i ∧ exec i (afterTurn s s.schedule.tail) = .next t ∧
        DoneShape i (afterTurn s s.schedule.tail) d)
  | rested (eq : t = afterTurn s s.schedule.tail)
  | accessed (a : HostAccess) (turn : s.schedule.head? = some (.host a)) (effect : HostEffect (afterTurn s s.schedule.tail) a t)
  | reset (turn : s.schedule.head? = some .reset) (eq : t = (afterTurn s s.schedule.tail).hardReset)

theorem stepped_of_step {s t : State} (h : step s = .next t) : Stepped s t := by
  obtain ⟨u, hu, hb, hrun⟩ | ⟨u, hu, -, hstep⟩ | ⟨a, u, off, hu, ho, hstep⟩ | ⟨a, u, -, -, hstep⟩ | ⟨u, hu, hstep⟩ :=
    step_cases s
  · obtain rfl := eq_afterTurn_of_nextTurn hu
    obtain ⟨i, hi, hstep⟩ | ⟨-, hstep⟩ := hrun
    · obtain ⟨r, hr, hshape⟩ := exec_runs i (afterTurn s s.schedule.tail)
      rw [hstep] at h
      rw [hr, finish_eq, Host.Outcome.next.injEq] at h
      refine .completed r (engineNext_of_nextTurn hu) hb h.symm fun d hd => ⟨i, hi, ?_, hshape d hd⟩
      rw [hr, finish_eq, h]
    · rw [hstep, Host.Outcome.next.injEq] at h
      exact .completed (.error .illegalCmd) (engineNext_of_nextTurn hu) hb h.symm fun _ hd => by cases hd
  · obtain rfl := eq_afterTurn_of_nextTurn hu
    exact .rested (by simpa [hstep] using h.symm)
  · obtain rfl := eq_afterTurn_of_nextTurn hu
    rw [hstep, Host.Outcome.next.injEq] at h
    exact .accessed a (head?_of_nextTurn hu (by simp)) (h ▸ access_effect ho)
  · simp [hstep] at h
  · obtain rfl := eq_afterTurn_of_nextTurn hu
    exact .reset (head?_of_nextTurn hu (by simp)) (by simpa [hstep] using h.symm)

end Sys2Proof.Machine
end

section
/-! The invariant: each agent's turn keeps it (O13). -/

namespace Sys2Proof.Machine

theorem osFit_of_forall {s : State} (h : ∀ r v, s.os r = some v → v.length ≤ s.cfg.osMaxLen) : s.osFit := fun r =>
  Option.all_eq_true _ _ |>.2 fun v hv => decide_eq_true (h r v hv)

theorem nFit_of_forall {s : State} (h : ∀ r v, s.n r = some v → v < 256 ^ s.cfg.osMaxLen) : s.nFit := fun r =>
  Option.all_eq_true _ _ |>.2 fun v hv => decide_eq_true (h r v hv)

/-- The files stay within capacity when every register keeps its contents or holds a string or integer that fits. -/
theorem osFit_of_cases {s t : State} (hs : s.osFit) (hc : t.cfg = s.cfg)
    (h : ∀ r v, t.os r = some v → s.os r = some v ∨ v.length ≤ s.cfg.osMaxLen) : t.osFit :=
  osFit_of_forall fun r v hv => hc ▸ (h r v hv).elim (osFit_length hs) id

theorem nFit_of_cases {s t : State} (hs : s.nFit) (hc : t.cfg = s.cfg)
    (h : ∀ r v, t.n r = some v → s.n r = some v ∨ v < 256 ^ s.cfg.osMaxLen) : t.nFit :=
  nFit_of_forall fun r v hv => hc ▸ (h r v hv).elim (nFit_lt hs) id

/-- The reset state of every admissible configuration meets the invariant, whatever is scheduled, read or drawn. -/
theorem hardReset_inv {s : State} (hc : s.cfg.ok = true) : s.hardReset.Inv :=
  ⟨hc, osFit_of_forall (by simp), nFit_of_forall (by simp), nofun, rfl, nofun, rfl⟩

theorem KeepsOutcome.coherent {s t : State} (o : KeepsOutcome s t) (h : s.outcomeCoherent) : t.outcomeCoherent := by
  obtain ⟨hbusy, herr, hresult, hcmd⟩ := h
  refine ⟨fun hb => ?_, by rw [o.err, o.errcode, herr], by rw [o.err, o.result]; exact hresult, by rw [o.cmd, o.lcmd, hcmd]⟩
  obtain ⟨hd, he, hr⟩ := hbusy (o.busy ▸ hb)
  exact ⟨Bool.eq_false_iff.2 fun ht => by simp [o.done ht] at hd, o.err.trans he, o.result.trans hr⟩

/-- An accepted command shows no outcome, and CMD reads back what is latched. -/
theorem acceptCommand_coherent (s : State) (w : Word) : (s.acceptCommand w).outcomeCoherent :=
  ⟨fun _ => ⟨rfl, rfl, rfl⟩, rfl, nofun, rfl⟩

theorem HostEffect.inv {s t : State} {a : HostAccess} (e : HostEffect s a t) (h : s.Inv) : t.Inv := by
  obtain ⟨hc, hos, hn, hout⟩ := h
  cases e with
  | issued w eq => subst eq; exact ⟨hc, hos, hn, acceptCommand_coherent s w⟩
  | kept o os n =>
    exact ⟨o.cfg ▸ hc, osFit_of_cases hos o.cfg fun r v hv => .inl (os r ▸ hv),
      nFit_of_cases hn o.cfg fun r v hv => .inl (n r ▸ hv), o.coherent hout⟩
  | cleared v o _ _ _ os n =>
    exact ⟨o.cfg ▸ hc, osFit_of_forall fun r v hv => by simp [os r] at hv,
      nFit_of_forall fun r v hv => by simp [n r] at hv, o.coherent hout⟩
  | resized v len o _ _ fits os n =>
    refine ⟨o.cfg ▸ hc, osFit_of_cases hos o.cfg fun r v hv => ?_, nFit_of_cases hn o.cfg fun r v hv => .inl (n r ▸ hv),
      o.coherent hout⟩
    rw [os r] at hv
    split at hv
    · obtain rfl := Option.some.inj hv
      exact .inr (by rwa [zeros_length])
    · exact .inl hv
  | poked old new o valid length os n =>
    refine ⟨o.cfg ▸ hc, osFit_of_cases hos o.cfg fun r v hv => ?_, nFit_of_cases hn o.cfg fun r v hv => .inl (n r ▸ hv),
      o.coherent hout⟩
    rw [os r] at hv
    split at hv
    · obtain rfl := Option.some.inj hv
      exact .inr (length ▸ osFit_length hos valid)
    · exact .inl hv

/-- A completion ends BUSY, so only the agreement of ERR, ERRCODE and RESULT is left: issue cleared all three. -/
theorem complete_coherent {s : State} (h : s.outcomeCoherent) (hb : s.status.busy = true) (r : RunResult) :
    (s.complete r).outcomeCoherent := by
  obtain ⟨hbusy, herr, -, hcmd⟩ := h
  obtain ⟨-, he, hr⟩ := hbusy hb
  cases r with
  | error c => exact ⟨nofun, rfl, by simp [hr], hcmd⟩
  | ok d => exact ⟨by simp, by simp [herr], by simp [he], by simpa using hcmd⟩

theorem complete_inv {s : State} (h : s.Inv) (hb : s.status.busy = true) {r : RunResult}
    (hr : ∀ d, r = .ok d → ∃ i, DoneShape i s d) : (s.complete r).Inv := by
  obtain ⟨hc, hos, hn, hout⟩ := h
  have hcoh := complete_coherent hout hb r
  cases r with
  | error c => exact ⟨hc, hos, hn, hcoh⟩
  | ok d =>
    obtain ⟨i, hi⟩ := hr d rfl
    rw [complete_ok] at hcoh ⊢
    refine ⟨by simpa using hc, osFit_of_cases hos (completeOk_cfg s d) fun r v hv => ?_,
      nFit_of_cases hn (completeOk_cfg s d) fun r v hv => ?_, hcoh⟩
    · obtain h | ⟨-, w, hw, hlen⟩ := hi.os_cases r
      · exact .inl (h ▸ hv)
      · obtain rfl := Option.some.inj (hw.symm.trans hv)
        exact .inr (hlen hc hos)
    · obtain h | ⟨-, w, hw, hlt⟩ := hi.n_cases r
      · exact .inl (h ▸ hv)
      · obtain rfl := Option.some.inj (hw.symm.trans hv)
        exact .inr hlt

/-- Settles O13: the engine's completion, a host access and the reset input each keep the invariant, and taking a turn off the
schedule touches nothing it speaks of. -/
theorem stepKeepsInvariant : Obligations.StepKeepsInvariant := by
  intro s t hs hstep
  have hu : (afterTurn s s.schedule.tail).Inv := hs
  cases stepped_of_step hstep with
  | completed r turn busy eq shape =>
    rw [eq]
    exact complete_inv hu busy fun d hd => (shape d hd).imp fun _ h => h.2.2
  | rested eq => rwa [eq]
  | accessed a turn effect => exact effect.inv hu
  | reset turn eq => rw [eq]; exact hardReset_inv hs.1

end Sys2Proof.Machine
end

section
/-! CTITER and the valid bits over a step (O49, O60). -/

namespace Sys2Proof.Machine

/-! ### CTITER -/

/-- CTEQ counts only when both strings are valid, and the count is the larger length (R300). -/
theorem execCteq_ctiter {s t : State} {rs1 rs2 : RegIdx} (h : exec (.cteq rs1 rs2) s = .next t) (hne : t.ctiter ≠ s.ctiter) :
    ∃ a b, s.os rs1 = some a ∧ s.os rs2 = some b ∧ t.ctiter = BitVec.ofNat 32 (max a.length b.length) := by
  simp only [exec, execCteq, finish_eq, Host.Outcome.next.injEq] at h
  cases ha : s.os rs1 with
  | none => simp [← h, readOS_of_none ha] at hne
  | some a =>
    cases hb : s.os rs2 with
    | none => simp [← h, readOS_of_some ha, readOS_of_none hb] at hne
    | some b => exact ⟨a, b, rfl, rfl, by simp [← h, readOS_of_some ha, readOS_of_some hb, ctEquals, doneResult]⟩

theorem HostEffect.ctiter {s t : State} {a : HostAccess} (e : HostEffect s a t) : t.ctiter = s.ctiter := by
  cases e with
  | issued w eq => rw [eq, acceptCommand_ctiter]
  | kept o | cleared _ o | resized _ _ o | poked _ _ o => exact o.ctiter

/-- Settles O49: no host access writes CTITER, and of the completions only an error-free one with a count does, which is CTEQ's. -/
theorem onlyCompareWritesCtiter : Obligations.OnlyCompareWritesCtiter := by
  intro s t hstep hne
  cases stepped_of_step hstep with
  | completed r turn busy eq shape =>
    cases r with
    | error c => exact absurd (congrArg State.ctiter eq) hne
    | ok d =>
      obtain ⟨i, hi, hexec, -, hiter⟩ := shape d rfl
      by_cases hcteq : ∃ rs1 rs2, i = .cteq rs1 rs2
      · obtain ⟨rs1, rs2, rfl⟩ := hcteq
        obtain ⟨a, b, ha, hb, hcount⟩ := execCteq_ctiter hexec hne
        exact .inr ⟨turn, busy, rs1, rs2, a, b, hi, ha, hb, hcount⟩
      · have hnone : d.iter = none := hiter fun rs1 rs2 h => hcteq ⟨rs1, rs2, h⟩
        refine absurd ?_ hne
        rw [eq, complete_ok, completeOk_ctiter, hnone]
        rfl
  | rested eq => exact absurd (congrArg State.ctiter eq) hne
  | accessed a turn effect => exact absurd effect.ctiter hne
  | reset turn eq => exact .inl turn

/-! ### Valid bits -/

/-- The turn clears every register: the reset input, or CLRALL written to an idle device (R33). -/
def ClearsFiles (s : State) : Prop :=
  s.schedule.head? = some .reset ∨
    ∃ v : Word, s.schedule.head? = some (mmioWrite s.cfg 0x08 v) ∧ v.getLsbD 2 = true ∧ s.status.busy = false

/-- The turn is an OSLEN write to an idle device with OS register `r` selected (R77). -/
def SizesRegister (s : State) (r : RegIdx) : Prop :=
  s.sel = r ∧ s.status.busy = false ∧ ∃ v : Word, s.schedule.head? = some (mmioWrite s.cfg 0x24 v)

/-- The turn completes a command without an error, whose destination in the file `dest` tells of is register `r` (R138). -/
def CompletesInto (dest : Instr → Option RegIdx) (s t : State) (r : RegIdx) : Prop :=
  engineNext s ∧ s.status.busy = true ∧ t.errcode = s.errcode ∧ ∃ i, decode s.lcmd = some i ∧ dest i = some r

/-- What a step can do to an OS register: keep it, clear it, or put a string into one that was valid, is sized by the host, or is the
destination of a command. -/
theorem step_os_cases {s t : State} (h : step s = .next t) (r : RegIdx) :
    t.os r = s.os r ∨ (t.os r = none ∧ ClearsFiles s) ∨
    ((t.os r).isSome ∧ ((s.os r).isSome ∨ SizesRegister s r ∨ CompletesInto destOS s t r)) := by
  cases stepped_of_step h with
  | completed res turn busy eq shape =>
    subst eq
    cases res with
    | error c => exact .inl rfl
    | ok d =>
      obtain ⟨i, hi, -, hshape⟩ := shape d rfl
      obtain hos | ⟨hdest, v, hv, -⟩ := hshape.os_cases r
      · exact .inl hos
      · exact .inr (.inr ⟨Option.isSome_of_eq_some hv, .inr (.inr ⟨turn, busy, completeOk_errcode _ d, i, hi, hdest⟩)⟩)
  | rested eq => subst eq; exact .inl rfl
  | reset turn eq => exact .inr (.inl ⟨eq ▸ os_hardReset _ r, .inl turn⟩)
  | accessed a turn effect =>
    cases effect with
    | issued w eq => subst eq; exact .inl rfl
    | kept o os n => exact .inl (os r)
    | cleared v o write clrall idle os n => exact .inr (.inl ⟨os r, .inr ⟨v, write ▸ turn, clrall, idle⟩⟩)
    | resized v len o write idle fits os n =>
      by_cases hr : r = s.sel
      · exact .inr (.inr ⟨Option.isSome_of_eq_some ((os r).trans (if_pos hr)), .inr (.inl ⟨hr.symm, idle, v, write ▸ turn⟩)⟩)
      · exact .inl ((os r).trans (if_neg hr))
    | poked old new o valid length os n =>
      by_cases hr : r = s.sel
      · exact .inr (.inr ⟨Option.isSome_of_eq_some ((os r).trans (if_pos hr)), .inl (hr ▸ Option.isSome_of_eq_some valid)⟩)
      · exact .inl ((os r).trans (if_neg hr))

/-- What a step can do to an N register: keep it, clear it, or write it as the destination of a command; the host port has no way to
the integer file. -/
theorem step_n_cases {s t : State} (h : step s = .next t) (r : RegIdx) :
    t.n r = s.n r ∨ (t.n r = none ∧ ClearsFiles s) ∨ ((t.n r).isSome ∧ CompletesInto destN s t r) := by
  cases stepped_of_step h with
  | completed res turn busy eq shape =>
    subst eq
    cases res with
    | error c => exact .inl rfl
    | ok d =>
      obtain ⟨i, hi, -, hshape⟩ := shape d rfl
      obtain hn | ⟨hdest, v, hv, -⟩ := hshape.n_cases r
      · exact .inl hn
      · exact .inr (.inr ⟨Option.isSome_of_eq_some hv, turn, busy, completeOk_errcode _ d, i, hi, hdest⟩)
  | rested eq => subst eq; exact .inl rfl
  | reset turn eq => exact .inr (.inl ⟨eq ▸ n_hardReset _ r, .inl turn⟩)
  | accessed a turn effect =>
    cases effect with
    | issued w eq => subst eq; exact .inl rfl
    | cleared v o write clrall idle os n => exact .inr (.inl ⟨n r, .inr ⟨v, write ▸ turn, clrall, idle⟩⟩)
    | kept _ _ n | resized _ _ _ _ _ _ _ n | poked _ _ _ _ _ _ n => exact .inl (n r)

/-- From what a step can do to a register: one that lost its valid bit was cleared, one that gained it was written. -/
theorem cleared_of_became_none {α : Type} {x y : Option α} {Clears Writes : Prop}
    (h : y = x ∨ (y = none ∧ Clears) ∨ (y.isSome ∧ Writes))
    (hx : x.isSome) (hy : y = none) : Clears := by
  obtain rfl | ⟨-, hc⟩ | ⟨hsome, -⟩ := h
  · simp [hy] at hx
  · exact hc
  · simp [hy] at hsome

theorem written_of_became_some {α : Type} {x y : Option α} {Clears Writes : Prop}
    (h : y = x ∨ (y = none ∧ Clears) ∨ (y.isSome ∧ Writes))
    (hx : x = none) (hy : y.isSome) : Writes := by
  obtain rfl | ⟨hnone, -⟩ | ⟨-, hw⟩ := h
  · simp [hx] at hy
  · simp [hnone] at hy
  · exact hw

/-- Settles O60: over a step a register is kept, cleared with all the others, or written. -/
theorem validBitsChangeOnly : Obligations.ValidBitsChangeOnly := by
  intro s t r hstep
  have hos := step_os_cases hstep r
  have hn := step_n_cases hstep r
  refine ⟨cleared_of_became_none hos, cleared_of_became_none hn, fun hx hy => ?_, written_of_became_some hn⟩
  exact (written_of_became_some hos hx hy).resolve_left (by simp [hx])

end Sys2Proof.Machine
end

section
/-! What a command's run depends on, and that the host's own registers are no part of it (O19). -/

namespace Sys2Proof.Machine

/-! ### The inputs of a run -/

/-- Two states that agree on everything a run reads: the register files, OS_MAXLEN, the latched parameters and RNGSRC, and the draws
so far. -/
structure SameInputs (s u : State) : Prop where
  os        : ∀ r, u.os r = s.os r
  n         : ∀ r, u.n r = s.n r
  osMaxLen  : u.cfg.osMaxLen = s.cfg.osMaxLen
  lparam0   : u.lparam0 = s.lparam0
  lparam1   : u.lparam1 = s.lparam1
  lrngsrc   : u.lrngsrc = s.lrngsrc
  drawCount : u.drawCount = s.drawCount

section
variable {s u : State} (h : SameInputs s u)
include h

theorem SameInputs.p0 : u.p0 = s.p0 := by rw [State.p0, State.p0, h.lparam0]

theorem SameInputs.p1 : u.p1 = s.p1 := by rw [State.p1, State.p1, h.lparam1]

theorem SameInputs.readOS (r : RegIdx) : readOS u r = readOS s r := by
  simp only [Machine.readOS, h.os]

theorem SameInputs.readN (r : RegIdx) : readN u r = readN s r := by
  simp only [Machine.readN, h.n]

theorem SameInputs.needCapacity (k : Nat) : needCapacity u k = needCapacity s k := by
  simp only [Machine.needCapacity, h.osMaxLen]

theorem SameInputs.readSource (r : RegIdx) : readSource u r = readSource s r := by
  simp only [Machine.readSource, h.lrngsrc, h.os]

theorem SameInputs.randOctets (src : Option OctetString) (k : Nat) : randOctets u src k = randOctets s src k := by
  simp only [Machine.randOctets, h.drawCount]

theorem SameInputs.randNonzeroOctets (src : Option OctetString) (k : Nat) :
    randNonzeroOctets u src k = randNonzeroOctets s src k := by
  simp only [Machine.randNonzeroOctets, h.drawCount]

theorem SameInputs.doneN (rd : RegIdx) (v : Nat) : doneN u rd v = doneN s rd v := by
  simp only [Machine.doneN, h.osMaxLen]

theorem SameInputs.emsa15Verify (a : HashAlg) (m em : OctetString) : emsa15Verify u a m em = emsa15Verify s a m em := by
  simp only [Machine.emsa15Verify, h.osMaxLen, h.p0]

theorem SameInputs.readBlock (base count : Nat) : readBlock u base count = readBlock s base count := by
  induction count generalizing base with
  | zero => rfl
  | succ count ih => simp only [Machine.readBlock, h.readN, ih]

theorem SameInputs.expPrimitive (rd rs1 rs2 rs3 : RegIdx) : expPrimitive u rd rs1 rs2 rs3 = expPrimitive s rd rs1 rs2 rs3 := by
  simp only [Machine.expPrimitive, h.readN, h.doneN]

theorem SameInputs.crtPrimitive (rd rs1 rs2 : RegIdx) : crtPrimitive u rd rs1 rs2 = crtPrimitive s rd rs1 rs2 := by
  simp only [Machine.crtPrimitive, readCrt, h.p0, h.readN, h.readBlock, h.doneN]

/-- A command completes with the same outcome from states that agree on its inputs. -/
theorem exec_same_outcome (i : Instr) : ∃ r, exec i s = finish s r ∧ exec i u = finish u r := by
  cases i with
  | hash alg rd rs1 => exact ⟨_, rfl, by simp only [exec, execHash, h.readOS]⟩
  | mgf1 alg rd rs1 => exact ⟨_, rfl, by simp only [exec, execMgf1, h.readOS, h.needCapacity, h.p0]⟩
  | i2osp rd rs1 => exact ⟨_, rfl, by simp only [exec, execI2osp, h.readN, h.needCapacity, h.p0]⟩
  | os2ip rd rs1 => exact ⟨_, rfl, by simp only [exec, execOs2ip, h.readOS, h.doneN]⟩
  | rsaep rd rs1 rs2 rs3 => exact ⟨_, rfl, by simp only [exec, execRsaep, h.expPrimitive]⟩
  | rsavp1 rd rs1 rs2 rs3 => exact ⟨_, rfl, by simp only [exec, execRsavp1, h.expPrimitive]⟩
  | rsadp rd rs1 rs2 rs3 => exact ⟨_, rfl, by simp only [exec, execRsadp, h.expPrimitive]⟩
  | rsasp1 rd rs1 rs2 rs3 => exact ⟨_, rfl, by simp only [exec, execRsasp1, h.expPrimitive]⟩
  | rsadpCrt rd rs1 rs2 => exact ⟨_, rfl, by simp only [exec, execRsadpCrt, h.crtPrimitive]⟩
  | rsasp1Crt rd rs1 rs2 => exact ⟨_, rfl, by simp only [exec, execRsasp1Crt, h.crtPrimitive]⟩
  | oaepEnc alg rd rs1 rs2 rs3 =>
    exact ⟨_, rfl, by simp only [exec, execOaepEnc, h.readOS, h.readSource, h.needCapacity, h.p0, h.randOctets]⟩
  | oaepDec alg rd rs1 rs2 => exact ⟨_, rfl, by simp only [exec, execOaepDec, h.readOS, h.p0]⟩
  | eme15Enc rd rs1 rs3 =>
    exact ⟨_, rfl, by simp only [exec, execEme15Enc, h.readOS, h.readSource, h.needCapacity, h.p0, h.randNonzeroOctets]⟩
  | eme15Dec rd rs1 => exact ⟨_, rfl, by simp only [exec, execEme15Dec, h.readOS, h.p0]⟩
  | pssEnc alg rd rs1 rs3 =>
    exact ⟨_, rfl, by simp only [exec, execPssEnc, h.readOS, h.readSource, h.needCapacity, h.p0, h.p1, h.randOctets]⟩
  | pssVer alg rs1 rs2 => exact ⟨_, rfl, by simp only [exec, execPssVer, h.readOS, h.p0, h.p1]⟩
  | emsa15Enc alg rd rs1 => exact ⟨_, rfl, by simp only [exec, execEmsa15Enc, h.readOS, h.needCapacity, h.p0]⟩
  | emsa15Ver alg rs1 rs2 => exact ⟨_, rfl, by simp only [exec, execEmsa15Ver, h.readOS, h.emsa15Verify]⟩
  | cteq rs1 rs2 => exact ⟨_, rfl, by simp only [exec, execCteq, h.readOS]⟩

end

/-! ### The host's own registers -/

/-- `s` with other contents in CTRL, PARAM0, PARAM1, the CMD read-back, OSPTR and SEL. -/
def State.withHostRegs (s : State) (ctrl : Ctrl) (p0 p1 cmd ptr : Word) (sel : RegIdx) : State :=
  { s with ctrl := ctrl, param0 := p0, param1 := p1, cmd := cmd, osptr := ptr, sel := sel }

theorem sameInputs_withHostRegs (s : State) (ctrl : Ctrl) (p0 p1 cmd ptr : Word) (sel : RegIdx) :
    SameInputs s (s.withHostRegs ctrl p0 p1 cmd ptr sel) :=
  ⟨fun _ => rfl, fun _ => rfl, rfl, rfl, rfl, rfl, rfl⟩

/-- Completion carries the host's own registers along untouched. -/
theorem complete_withHostRegs (s : State) (r : RunResult) (ctrl : Ctrl) (p0 p1 cmd ptr : Word) (sel : RegIdx) :
    (s.withHostRegs ctrl p0 p1 cmd ptr sel).complete r = (s.complete r).withHostRegs ctrl p0 p1 cmd ptr sel := by
  rcases r with c | ⟨_ | ⟨i, v⟩ | ⟨i, v⟩, res, iter, draws⟩ <;> rfl

/-- Settles O19: the run has the same outcome, and the completion with it leaves the host's own registers as they stand. -/
theorem commandReadsOnlyLatchedState : Obligations.CommandReadsOnlyLatchedState := by
  intro i s ctrl p0 p1 cmd ptr sel f
  obtain ⟨r, hs, hf⟩ := exec_same_outcome (sameInputs_withHostRegs s ctrl p0 p1 cmd ptr sel) i
  calc exec i (f s) = finish (s.withHostRegs ctrl p0 p1 cmd ptr sel) r := hf
    _ = .next ((s.complete r).withHostRegs ctrl p0 p1 cmd ptr sel) := by rw [finish_eq, complete_withHostRegs]
    _ = mapNext f (exec i s) := by rw [hs]; rfl

end Sys2Proof.Machine
end

section
/-! The control registers, reads and the interrupt output (O55, O56, O57). -/

namespace Sys2Proof.Machine

/-! ### CTRL, STATUS, PARAM0 and PARAM1 -/

theorem writeCtrl_of_clrall {s : State} {v : Word} (h : v.getLsbD 2 = true) :
    s.writeCtrl v = State.clearAll { s with ctrl := Ctrl.ofWord v } := if_pos h

theorem writeCtrl_of_not_clrall {s : State} {v : Word} (h : v.getLsbD 2 = false) :
    s.writeCtrl v = { s with ctrl := Ctrl.ofWord v } := if_neg (Bool.eq_false_iff.1 h)

/-- With BUSY = 0 a write to a register that is dropped while BUSY = 1 does what the register says. -/
theorem step_mmioWrite_idle {s : State} {rest : List Turn} {off : Nat} {v : Word} (h4 : off % 4 = 0) (h : off ≤ 0xFC)
    (hb : s.status.busy = false) (hs : s.schedule = mmioWrite s.cfg off v :: rest) {t : State}
    (hr : State.writeReg (afterTurn s rest) (mmioRegAt off) v = (afterTurn s rest).unlessBusy t) : step s = .next t := by
  rw [step_mmioWrite h4 h hs]
  exact congrArg _ (hr.trans (unlessBusy_of_idle t hb))

/-- Settles O55: with BUSY = 0 each write is performed, and CLRALL comes with the stored bits of CTRL. -/
theorem controlRegisterWrites : Obligations.ControlRegisterWrites := by
  intro s rest v hb
  refine ⟨fun hs => ?_, fun hs => step_mmioWrite (by decide) (by decide) hs,
    fun hs => step_mmioWrite_idle (by decide) (by decide) hb hs rfl,
    fun hs => step_mmioWrite_idle (by decide) (by decide) hb hs rfl⟩
  have hstep : step s = .next ((afterTurn s rest).writeCtrl v) := step_mmioWrite_idle (by decide) (by decide) hb hs rfl
  refine ⟨fun hv => ?_, fun hv => ?_⟩
  · rw [hstep, writeCtrl_of_not_clrall hv]; rfl
  · rw [writeCtrl_of_clrall hv] at hstep
    exact ⟨_, hstep, os_clearAll _, n_clearAll _, rfl⟩

/-! ### Reads -/

theorem ctrl_toWord_eq (c : Ctrl) : c.toWord = BitVec.ofNat 32 (c.ie.toNat + 2 * c.rngsrc.toNat) := by
  rcases c with ⟨_ | _, _ | _⟩ <;> rfl

theorem status_toWord_eq (f : Status) : f.toWord = BitVec.ofNat 32 (f.busy.toNat + 2 * f.done.toNat + 4 * f.err.toNat +
    8 * f.result.toNat + 16 * f.cmdovf.toNat + 32 * f.hosterr.toNat) := by
  rcases f with ⟨_ | _, _ | _, _ | _, _ | _, _ | _, _ | _⟩ <;> rfl

theorem oslenWord_of_some {s : State} {str : OctetString} (h : s.os s.sel = some str) :
    s.oslenWord = (1 : Word) <<< 31 ||| BitVec.ofNat 32 str.length := by
  simp [State.oslenWord, h]

theorem oslenWord_of_none {s : State} (h : s.os s.sel = none) : s.oslenWord = 0 := by
  simp [State.oslenWord, h]

/-- A read of a register whose read has no side effect leaves the value on the bus and does nothing else. -/
theorem step_plainRead {s : State} {rest : List Turn} {off : Nat} {v : Word} (h4 : off % 4 = 0) (h : off ≤ 0xFC)
    (hv : State.readReg (afterTurn s rest) (mmioRegAt off) = (v, afterTurn s rest))
    (hs : s.schedule = mmioRead s.cfg off :: rest) : step s = .next { s with schedule := rest, readData := some v } := by
  rw [step_mmioRead h4 h hs]
  change Host.Outcome.next { (State.readReg (afterTurn s rest) (mmioRegAt off)).2 with
    readData := some (State.readReg (afterTurn s rest) (mmioRegAt off)).1 } = _
  rw [hv]
  rfl

/-- The offsets whose writes store nothing (R49, R82). -/
theorem writeReg_ignored {s : State} {off : Nat} (v : Word) (h : off ∈ [0x00, 0x04, 0x10, 0x30] ∨ 0x34 ≤ off) :
    s.writeReg (mmioRegAt off) v = s.ignoredWrite := by
  obtain h | h := h
  · simp only [List.mem_cons, List.not_mem_nil, or_false] at h
    obtain rfl | rfl | rfl | rfl := h <;> rfl
  · rw [mmioRegAt_reserved h]; rfl

/-- Settles O56: every register but OSDATA is a plain read, and the ignored writes share one effect. -/
theorem readsAndIgnoredWrites : Obligations.ReadsAndIgnoredWrites := by
  intro s rest
  refine ⟨step_plainRead (by decide) (by decide) rfl, step_plainRead (by decide) (by decide) rfl,
    step_plainRead (by decide) (by decide) (congrArg (·, _) (ctrl_toWord_eq s.ctrl)),
    step_plainRead (by decide) (by decide) (congrArg (·, _) (status_toWord_eq s.status)),
    step_plainRead (by decide) (by decide) rfl, step_plainRead (by decide) (by decide) rfl,
    step_plainRead (by decide) (by decide) rfl, step_plainRead (by decide) (by decide) rfl,
    step_plainRead (by decide) (by decide) rfl,
    fun str h => step_plainRead (by decide) (by decide) (congrArg (·, _) (oslenWord_of_some h)),
    fun h => step_plainRead (by decide) (by decide) (congrArg (·, _) (oslenWord_of_none h)),
    step_plainRead (by decide) (by decide) rfl, step_plainRead (by decide) (by decide) rfl,
    fun off h4 hlo hhi => step_plainRead h4 hhi (by rw [mmioRegAt_reserved hlo]; rfl),
    fun off v h4 hhi hoff hs => ?_⟩
  rw [step_mmioWrite h4 hhi hs, writeReg_ignored v hoff, ignoredWrite_eq]

/-! ### The interrupt output -/

@[simp] theorem complete_ctrl (s : State) (r : RunResult) : (s.complete r).ctrl = s.ctrl := by
  cases r <;> simp

theorem irq_of_not_done {s : State} (h : s.status.done = false) : s.irq = false := by
  rw [State.irq, h, Bool.and_false]

theorem step_reset {s : State} {rest : List Turn} (hs : s.schedule = .reset :: rest) :
    step s = .next (afterTurn s rest).hardReset := by
  rw [step, nextTurn_cons hs]; rfl

/-- A completion raises DONE, so the interrupt output is IE. -/
theorem irq_of_exec {i : Instr} {s t : State} (h : exec i s = .next t) : t.irq = s.ctrl.ie := by
  obtain ⟨r, hr, -⟩ := exec_runs i s
  rw [hr, finish_eq, Host.Outcome.next.injEq] at h
  rw [← h, State.irq, complete_ctrl, complete_done, Bool.and_true]

/-- Settles O57: a completion sets DONE; the acknowledge, an issue and reset each clear it. -/
theorem interruptLevel : Obligations.InterruptLevel := by
  refine ⟨fun _ => rfl, fun _ _ _ => irq_of_exec, fun s t rest hs hstep => irq_of_not_done ?_⟩
  obtain hs | ⟨hb, w, hs⟩ | hs := hs
  · rw [step_mmioWrite (by decide) (by decide) hs, Host.Outcome.next.injEq] at hstep
    rw [← hstep]
    exact Bool.and_false _
  · rw [step_mmioWrite (by decide) (by decide) hs, Host.Outcome.next.injEq] at hstep
    have hissue : State.writeReg (afterTurn s rest) (mmioRegAt 0x14) w = (afterTurn s rest).acceptCommand w := issue_of_idle w hb
    rw [← hstep]
    exact congrArg (·.status.done) hissue
  · rw [step_reset hs, Host.Outcome.next.injEq] at hstep
    rw [← hstep]
    rfl

end Sys2Proof.Machine
end

section
/-! Which accesses are admitted, and that nothing else stops a step (O10, O11). -/

namespace Sys2Proof.Machine

/-! ### Admission -/

theorem admittedOffset_isSome_iff {c : Config} {size : AccessSize} {addr : Nat} :
    (admittedOffset c size addr).isSome ↔
      size = .word ∧ c.baseAddr ≤ addr ∧ addr ≤ c.baseAddr + 0xFC ∧ (addr - c.baseAddr) % 4 = 0 := by
  have hlast : (c.baseAddr ≤ addr ∧ addr < c.baseAddr + 256 ∧ (addr - c.baseAddr) % 4 = 0) ↔
      (c.baseAddr ≤ addr ∧ addr ≤ c.baseAddr + 0xFC ∧ (addr - c.baseAddr) % 4 = 0) := by omega
  simp only [admittedOffset, Option.isSome_ite, hlast]

theorem step_host {s : State} {rest : List Turn} {a : HostAccess} (hs : s.schedule = .host a :: rest) :
    step s = hostTurn (afterTurn s rest) a := by
  rw [step, nextTurn_cons hs]; rfl

theorem hostTurn_of_offset {s : State} {a : HostAccess} {off : Nat} (h : a.offset s.cfg = some off) :
    hostTurn s a = .next (s.access a off) := by
  simp [hostTurn, h]

theorem hostTurn_of_no_offset {s : State} {a : HostAccess} (h : a.offset s.cfg = none) :
    hostTurn s a = .refused (.accessNotAdmitted a) := by
  simp [hostTurn, h]

/-- A host's turn answers a next state exactly when the access has an offset in the window; else it is refused. -/
theorem step_host_of_isSome_iff {s : State} {rest : List Turn} {a : HostAccess} {P : Prop} (hs : s.schedule = .host a :: rest)
    (hP : (a.offset s.cfg).isSome ↔ P) :
    (P → ∃ t, step s = .next t) ∧ (¬ P → step s = .refused (.accessNotAdmitted a)) := by
  rw [step_host hs, ← hP]
  refine ⟨fun h => ?_, fun h => hostTurn_of_no_offset (Option.not_isSome_iff_eq_none.1 h)⟩
  obtain ⟨off, hoff⟩ := Option.isSome_iff_exists.1 h
  exact ⟨_, hostTurn_of_offset hoff⟩

/-- Settles O11: reads and writes are admitted by the same condition on width and address. -/
theorem accessAdmission : Obligations.AccessAdmission := by
  intro s rest size addr v a ha hs
  obtain rfl | rfl := ha
  · exact step_host_of_isSome_iff hs admittedOffset_isSome_iff
  · exact step_host_of_isSome_iff hs admittedOffset_isSome_iff

/-! ### Stops -/

theorem exec_next (i : Instr) (s : State) : ∃ t, exec i s = .next t := by
  obtain ⟨r, hr, -⟩ := exec_runs i s
  exact ⟨_, hr.trans (finish_eq s r)⟩

/-- Settles O10: the engine always completes and reset always happens, so only the host's turn is left to stop a step. -/
theorem stepStopsOnlyOnRefusedAccess : Obligations.StepStopsOnlyOnRefusedAccess := by
  intro s
  obtain ⟨u, -, -, hrun⟩ | ⟨u, -, -, hstep⟩ | ⟨a, u, off, -, -, hstep⟩ | ⟨a, u, hu, ho, hstep⟩ | ⟨u, -, hstep⟩ :=
    step_cases s
  · obtain ⟨i, -, hstep⟩ | ⟨-, hstep⟩ := hrun
    · obtain ⟨t, ht⟩ := exec_next i u
      exact .inl ⟨t, hstep.trans ht⟩
    · exact .inl ⟨_, hstep⟩
  · exact .inl ⟨_, hstep⟩
  · exact .inl ⟨_, hstep⟩
  · obtain ⟨rest, hs⟩ := List.head?_eq_some_iff.1 (head?_of_nextTurn hu (by simp))
    obtain rfl := eq_afterTurn_of_nextTurn hu
    exact .inr ⟨a, rest, hs, ho, hstep⟩
  · exact .inl ⟨_, hstep⟩

end Sys2Proof.Machine
end

section
/-! LANE_ORDER is carried and never read (O20). -/

namespace Sys2Proof.Machine

/-- `s` on a device with the lane order `lanes`. -/
def State.withLanes (s : State) (lanes : Vector (Fin 4) 4) : State :=
  { s with cfg := { s.cfg with laneOrder := lanes } }

variable (s : State) (lanes : Vector (Fin 4) 4)

/-! ### The engine -/

theorem sameInputs_withLanes : SameInputs s (s.withLanes lanes) :=
  ⟨fun _ => rfl, fun _ => rfl, rfl, rfl, rfl, rfl, rfl⟩

theorem complete_withLanes (r : RunResult) : (s.withLanes lanes).complete r = (s.complete r).withLanes lanes := by
  rcases r with c | ⟨_ | ⟨i, v⟩ | ⟨i, v⟩, res, iter, draws⟩ <;> rfl

theorem exec_withLanes (i : Instr) : exec i (s.withLanes lanes) = mapNext (·.withLanes lanes) (exec i s) := by
  obtain ⟨r, hs, hl⟩ := exec_same_outcome (sameInputs_withLanes s lanes) i
  rw [hs, hl, finish_eq, finish_eq, complete_withLanes, mapNext]

theorem engineStep_withLanes : engineStep (s.withLanes lanes) = mapNext (·.withLanes lanes) (engineStep s) := by
  have hfetch : (s.withLanes lanes).fetch = s.fetch := rfl
  rw [engineStep, engineStep, hfetch]
  cases decode s.fetch with
  | some i => exact exec_withLanes s lanes i
  | none => rfl

theorem engineTurn_withLanes : engineTurn (s.withLanes lanes) = mapNext (·.withLanes lanes) (engineTurn s) := by
  simp only [engineTurn, apply_ite (mapNext _), ← engineStep_withLanes]
  rfl

/-! ### The host -/

theorem unlessBusy_withLanes (t : State) :
    (s.withLanes lanes).unlessBusy (t.withLanes lanes) = (s.unlessBusy t).withLanes lanes :=
  (apply_ite (State.withLanes · lanes) (s.status.busy = true) s.hostError t).symm

theorem writeCtrl_withLanes (v : Word) : (s.withLanes lanes).writeCtrl v = (s.writeCtrl v).withLanes lanes := by
  rw [State.writeCtrl, State.writeCtrl, apply_ite (State.withLanes · lanes)]
  rfl

theorem issue_withLanes (w : Word) : (s.withLanes lanes).issue w = (s.issue w).withLanes lanes :=
  (apply_ite (State.withLanes · lanes) (s.status.busy = true) s.commandOverflow (s.acceptCommand w)).symm

theorem writeOslen_withLanes (v : Word) : (s.withLanes lanes).writeOslen v = (s.writeOslen v).withLanes lanes := by
  rw [State.writeOslen, State.writeOslen, apply_ite (State.withLanes · lanes)]
  rfl

theorem writeOsdata_withLanes (v : Word) : (s.withLanes lanes).writeOsdata v = (s.writeOsdata v).withLanes lanes := by
  have hos : (s.withLanes lanes).os (s.withLanes lanes).sel = s.os s.sel := rfl
  rw [State.writeOsdata, State.writeOsdata, hos]
  cases s.os s.sel with
  | some str => dsimp only; rw [apply_ite (State.withLanes · lanes)]; rfl
  | none => rfl

theorem writeReg_withLanes (r : MmioReg) (v : Word) : (s.withLanes lanes).writeReg r v = (s.writeReg r v).withLanes lanes := by
  cases r with
  | status => rfl
  | cmd => exact issue_withLanes s lanes v
  | ctrl => simp only [State.writeReg, writeCtrl_withLanes, unlessBusy_withLanes]
  | oslen => simp only [State.writeReg, writeOslen_withLanes, unlessBusy_withLanes]
  | osdata => simp only [State.writeReg, writeOsdata_withLanes, unlessBusy_withLanes]
  | param0 => exact unlessBusy_withLanes s lanes { s with param0 := v }
  | param1 => exact unlessBusy_withLanes s lanes { s with param1 := v }
  | osptr => exact unlessBusy_withLanes s lanes { s with osptr := v }
  | sel => exact unlessBusy_withLanes s lanes (s.writeSel v)
  | id | caps | errcode | ctiter | reserved => exact unlessBusy_withLanes s lanes s

theorem readOsdata_withLanes :
    (s.withLanes lanes).readOsdata = (s.readOsdata.1, s.readOsdata.2.withLanes lanes) := by
  have hbusy : (s.withLanes lanes).status.busy = s.status.busy := rfl
  have hoctet : (s.withLanes lanes).portOctet = s.portOctet := rfl
  unfold State.readOsdata
  rw [hbusy, hoctet]
  cases s.status.busy with
  | true => rfl
  | false => cases s.portOctet <;> rfl

theorem readReg_withLanes (r : MmioReg) :
    (s.withLanes lanes).readReg r = ((s.readReg r).1, (s.readReg r).2.withLanes lanes) := by
  cases r with
  | osdata => exact readOsdata_withLanes s lanes
  | _ => rfl

theorem access_withLanes (a : HostAccess) (off : Nat) :
    (s.withLanes lanes).access a off = (s.access a off).withLanes lanes := by
  cases a with
  | read size addr => simp only [State.access, readReg_withLanes]; rfl
  | write size addr v => exact writeReg_withLanes s lanes _ v

theorem offset_withLanes (a : HostAccess) : a.offset (s.withLanes lanes).cfg = a.offset s.cfg := by
  cases a <;> rfl

theorem hostTurn_withLanes (a : HostAccess) : hostTurn (s.withLanes lanes) a = mapNext (·.withLanes lanes) (hostTurn s a) := by
  cases h : a.offset s.cfg with
  | some off =>
    rw [hostTurn_of_offset h, hostTurn_of_offset ((offset_withLanes s lanes a).trans h), access_withLanes, mapNext]
  | none => rw [hostTurn_of_no_offset h, hostTurn_of_no_offset ((offset_withLanes s lanes a).trans h), mapNext]

/-! ### The step -/

theorem nextTurn_withLanes : (s.withLanes lanes).nextTurn = (s.nextTurn.1, s.nextTurn.2.withLanes lanes) := by
  cases h : s.schedule with
  | nil => rw [nextTurn_nil h, nextTurn_nil (s := s.withLanes lanes) h]
  | cons x xs => rw [nextTurn_cons h, nextTurn_cons (s := s.withLanes lanes) h]; rfl

/-- Settles O20: whoever's turn it is, the turn commutes with a change of the lane order. -/
theorem laneOrderUnobservable : Obligations.LaneOrderUnobservable := by
  intro s lanes f
  change step (s.withLanes lanes) = mapNext (·.withLanes lanes) (step s)
  rw [step, step, nextTurn_withLanes]
  obtain ⟨turn, t⟩ := s.nextTurn
  cases turn with
  | engine => exact engineTurn_withLanes t lanes
  | host a => exact hostTurn_withLanes t lanes a
  | reset => rfl

end Sys2Proof.Machine
end

section
/-! Host accesses while BUSY = 1 (O54). -/

namespace Sys2Proof.Machine

/-- `t` is `s` but for DONE, CMDOVF, HOSTERR and what the bus read: what the host can still change while BUSY = 1 (R446). -/
def SameButFlags (s t : State) : Prop :=
  t = { s with
    readData := t.readData
    status := { s.status with done := t.status.done, cmdovf := t.status.cmdovf, hosterr := t.status.hosterr } }

/-- While BUSY = 1 an OSDATA read sets HOSTERR, every other read has no side effect, and a write sets a flag or clears some. -/
theorem access_sameButFlags {s : State} (hb : s.status.busy = true) (a : HostAccess) (off : Nat) :
    SameButFlags s (s.access a off) := by
  cases a with
  | read size addr =>
    suffices h : (s.readReg (mmioRegAt off)).2 = s ∨ (s.readReg (mmioRegAt off)).2 = s.hostError by
      obtain h | h := h <;> simp only [State.access, h] <;> rfl
    by_cases hr : mmioRegAt off = .osdata
    · obtain ⟨d, hidle, -⟩ | ⟨-, h⟩ := readOsdata_cases s
      · rw [hb] at hidle; cases hidle
      · exact .inr (by rw [hr, State.readReg, h])
    · exact .inl (readReg_state hr)
  | write size addr v =>
    obtain ⟨-, h⟩ | ⟨-, h⟩ | ⟨-, -, h⟩ := writeReg_of_busy (mmioRegAt off) v hb <;>
      rw [State.access, h] <;> rfl

/-- A write to any offset but STATUS's and CMD's is dropped with HOSTERR while BUSY = 1. -/
theorem writeReg_dropped {s : State} {off : Nat} (v : Word) (hb : s.status.busy = true) (hstatus : off ≠ 0x0C) (hcmd : off ≠ 0x14) :
    s.writeReg (mmioRegAt off) v = s.hostError := by
  obtain ⟨h, -⟩ | ⟨h, -⟩ | ⟨-, -, h⟩ := writeReg_of_busy (mmioRegAt off) v hb
  · exact absurd (mmioRegAt_eq_cmd.1 h) hcmd
  · exact absurd (mmioRegAt_eq_status.1 h) hstatus
  · exact h

/-- Settles O54: an access changes flags and the bus only; a write sets HOSTERR, but CMD's sets CMDOVF and STATUS's is served. -/
theorem busyDropsHostWrites : Obligations.BusyDropsHostWrites := by
  intro s rest hb
  refine ⟨fun a t hs hstep => ?_, fun off v h4 hhi hstatus hcmd hs => ?_, fun v hs => ?_,
    fun v hs => step_mmioWrite (by decide) (by decide) hs⟩
  · rw [step_host hs] at hstep
    cases ho : a.offset s.cfg with
    | some off =>
      rw [hostTurn_of_offset (s := afterTurn s rest) ho, Host.Outcome.next.injEq] at hstep
      subst hstep
      exact access_sameButFlags (s := afterTurn s rest) hb a off
    | none => rw [hostTurn_of_no_offset (s := afterTurn s rest) ho] at hstep; cases hstep
  · exact (step_mmioWrite h4 hhi hs).trans (congrArg _ (writeReg_dropped (s := afterTurn s rest) v hb hstatus hcmd))
  · exact (step_mmioWrite (by decide) (by decide) hs).trans (congrArg _ (issue_of_busy (s := afterTurn s rest) v hb))

end Sys2Proof.Machine
end

section
/-! The host buffer port (O51, O52). -/

namespace Sys2Proof.Machine

/-! ### Writes -/

theorem writeSel_eq (s : State) (v : Word) : s.writeSel v = { s with sel := Fin.ofNat 32 v.toNat, osptr := 0 } := by
  have h : (v.extractLsb' 0 5).toFin = Fin.ofNat 32 v.toNat := by ext; simp
  rw [State.writeSel, h]

theorem writeOslen_of_le {s : State} {v : Word} (h : v.toNat % 2 ^ 31 ≤ s.cfg.osMaxLen) :
    s.writeOslen v = { s.setOS s.sel (zeros (v.toNat % 2 ^ 31)) with osptr := 0 } := by
  rw [State.writeOslen, BitVec.extractLsb'_toNat, Nat.shiftRight_zero]
  exact if_neg (not_lt.2 h)

theorem writeOslen_of_lt {s : State} {v : Word} (h : s.cfg.osMaxLen < v.toNat % 2 ^ 31) : s.writeOslen v = s.hostError := by
  rw [State.writeOslen, BitVec.extractLsb'_toNat, Nat.shiftRight_zero]
  exact if_pos h

theorem writeOsdata_of_lt {s : State} {str : OctetString} (v : Word) (hos : s.os s.sel = some str)
    (h : s.osptr.toNat < str.length) :
    s.writeOsdata v = { s.setOS s.sel (str.set s.osptr.toNat (v.setWidth 8)) with osptr := s.osptr + 1 } := by
  have hv : v.extractLsb' 0 8 = v.setWidth 8 := (BitVec.setWidth_eq_extractLsb' (by decide)).symm
  simp [State.writeOsdata, hos, h, hv]

/-- OSDATA writes nothing into an invalid register or past the end of a string (R80). -/
theorem writeOsdata_of_le {s : State} (v : Word) (h : ∀ str, s.os s.sel = some str → str.length ≤ s.osptr.toNat) :
    s.writeOsdata v = s.hostError := by
  cases hos : s.os s.sel with
  | none => simp [State.writeOsdata, hos]
  | some str => simp [State.writeOsdata, hos, h str hos]

/-- Settles O51: with BUSY = 0 each write of the port does what its register says. -/
theorem bufferPortWrites : Obligations.BufferPortWrites := by
  intro s rest v hb
  refine ⟨fun hs => ?_, fun hs => ?_, fun hs => step_mmioWrite_idle (by decide) (by decide) hb hs rfl, fun hs => ?_⟩
  · rw [step_mmioWrite_idle (by decide) (by decide) hb hs rfl, writeSel_eq]; rfl
  · have hstep : step s = .next ((afterTurn s rest).writeOslen v) := step_mmioWrite_idle (by decide) (by decide) hb hs rfl
    exact ⟨fun h => hstep.trans (congrArg _ (writeOslen_of_le h)), fun h => hstep.trans (congrArg _ (writeOslen_of_lt h))⟩
  · have hstep : step s = .next ((afterTurn s rest).writeOsdata v) := step_mmioWrite_idle (by decide) (by decide) hb hs rfl
    exact ⟨fun str hos h => hstep.trans (congrArg _ (writeOsdata_of_lt v hos h)),
      fun h => hstep.trans (congrArg _ (writeOsdata_of_le v h))⟩

/-! ### Reads -/

theorem portOctet_of_some {s : State} {str : OctetString} (h : s.os s.sel = some str) :
    s.portOctet = str[s.osptr.toNat]? := by
  simp [State.portOctet, h]

/-- The port addresses no octet of an invalid register or past the end of a string (R81). -/
theorem portOctet_eq_none {s : State} (h : ∀ str, s.os s.sel = some str → str.length ≤ s.osptr.toNat) : s.portOctet = none := by
  cases hos : s.os s.sel with
  | none => simp [State.portOctet, hos]
  | some str => rw [portOctet_of_some hos, List.getElem?_eq_none (h str hos)]

theorem readOsdata_of_octet {s : State} {b : Byte} (hb : s.status.busy = false) (h : s.portOctet = some b) :
    s.readOsdata = (b.setWidth 32, { s with osptr := s.osptr + 1 }) := by
  simp [State.readOsdata, hb, h]

theorem readOsdata_fails {s : State} (h : s.status.busy = true ∨ s.portOctet = none) : s.readOsdata = (0, s.hostError) := by
  obtain ⟨d, hb, hd, -⟩ | ⟨-, hread⟩ := readOsdata_cases s
  · simp [hb, hd] at h
  · exact hread

/-- An OSDATA read leaves on the bus what the port gives. -/
theorem step_readOsdata {s t : State} {rest : List Turn} {v : Word} (hs : s.schedule = mmioRead s.cfg 0x2C :: rest)
    (h : (afterTurn s rest).readOsdata = (v, t)) : step s = .next { t with readData := some v } := by
  have hstep : step s = .next { (afterTurn s rest).readOsdata.2 with readData := some (afterTurn s rest).readOsdata.1 } :=
    step_mmioRead (by decide) (by decide) hs
  rw [hstep, h]

/-- Settles O52: OSLEN and OSPTR are plain reads; OSDATA delivers the addressed octet or fails. -/
theorem bufferPortReads : Obligations.BufferPortReads := by
  intro s rest
  refine ⟨fun hs => ⟨fun str h => ?_, fun h => ?_⟩, step_plainRead (by decide) (by decide) rfl,
    fun hs => ⟨fun str b hb hos hget => ?_, fun h => ?_⟩⟩
  · exact step_plainRead (by decide) (by decide) (congrArg (·, _) (oslenWord_of_some h)) hs
  · exact step_plainRead (by decide) (by decide) (congrArg (·, _) (oslenWord_of_none h)) hs
  · exact step_readOsdata hs (readOsdata_of_octet hb ((portOctet_of_some hos).trans hget))
  · exact step_readOsdata hs (readOsdata_fails (h.imp_right portOctet_eq_none))

end Sys2Proof.Machine
end

section
/-! Decoding and encoding (spec/30_encoding.md R101 to R107; O1, O2, O3, O6). -/

namespace Sys2Proof

/-! ### A word and its fields -/

theorem codeOfAlg_algOfCode (c : BitVec 3) : codeOfAlg (algOfCode c) = c := by
  revert c; decide

/-- A field of `len` bits from `lo` up, put back at its place, gives the bits of the word there. -/
theorem extractLsb'_getLsbD_sub (w : Word) (lo len i : Nat) :
    (decide (lo ≤ i) && (w.extractLsb' lo len).getLsbD (i - lo)) = (decide (lo ≤ i ∧ i < lo + len) && w.getLsbD i) := by
  by_cases h : lo ≤ i
  · have hlen : i - lo < len ↔ i < lo + len := by omega
    simp [BitVec.getLsbD_extractLsb', Nat.add_sub_cancel' h, h, hlen]
  · simp [h]

/-- A word whose RSV is 0 is its own six fields packed (R101). -/
theorem pack_fields {w : Word} (hrsv : w.extractLsb' 29 3 = 0) :
    pack (w.extractLsb' 0 6) (w.extractLsb' 6 3) (regField w 9) (regField w 14) (regField w 19) (regField w 24) = w := by
  apply BitVec.eq_of_getLsbD_eq
  intro i hi
  have hreg : ∀ lo, BitVec.ofFin (w := 5) (regField w lo) = w.extractLsb' lo 5 := fun _ => rfl
  have htop : (decide (29 ≤ i ∧ i < 32) && w.getLsbD i) = false := by
    rw [← extractLsb'_getLsbD_sub w 29 3 i, hrsv]; simp
  have hop := extractLsb'_getLsbD_sub w 0 6 i
  simp only [Nat.zero_le, decide_true, Bool.true_and, Nat.sub_zero, true_and] at hop
  rw [pack_getLsbD _ _ _ _ _ _ _ hi]
  simp only [hreg, hop, extractLsb'_getLsbD_sub]
  cases hw : w.getLsbD i with
  | false => simp
  | true =>
    simp only [hw, Bool.and_true, decide_eq_false_iff_not] at htop
    simp only [Bool.and_true, Bool.or_eq_true, decide_eq_true_eq]
    omega

/-- The decoder compares register fields with 0, R105 their numbers. -/
theorem toNat_beq_zero_eq_regField (w : Word) (lo : Nat) : ((w.extractLsb' lo 5).toNat == 0) = (regField w lo == 0) := by
  rw [Bool.eq_iff_iff, beq_iff_eq, beq_iff_eq, Fin.ext_iff]
  rfl

/-- R105 (c) on a word, read from the fields the decoder compares with 0. -/
theorem unusedZero_ofWord (w : Word) (r : OpcodeRow) : (CmdFields.ofWord w).unusedZero r =
    ((r.usesRd || regField w 9 == 0) && (r.usesRs2 || regField w 19 == 0) && (r.usesRs3 || regField w 24 == 0) &&
      (r.usesAlg || w.extractLsb' 6 3 == 0)) := by
  have halg : ((w.extractLsb' 6 3).toNat == 0) = (w.extractLsb' 6 3 == 0) := by
    rw [Bool.eq_iff_iff, beq_iff_eq, beq_iff_eq, ← BitVec.toNat_inj]; rfl
  simp only [CmdFields.unusedZero, CmdFields.ofWord, toNat_beq_zero_eq_regField, halg]

theorem opcodeMap_op_bounds : ∀ r ∈ opcodeMap, 1 ≤ r.op ∧ r.op ≤ 0x13 := by decide

theorem fits_ofWord (w : Word) : (CmdFields.ofWord w).fits = true := by
  simp only [CmdFields.fits, Bool.and_eq_true, decide_eq_true_eq]
  exact ⟨⟨⟨⟨⟨⟨BitVec.isLt _, BitVec.isLt _⟩, BitVec.isLt _⟩, BitVec.isLt _⟩, BitVec.isLt _⟩, BitVec.isLt _⟩, BitVec.isLt _⟩

section
variable {w : Word}

/-- A word with RSV = 0 whose opcode has the row `r` is well-formed when the fields `r` does not use are 0 (R105). -/
theorem wellFormed_of_row {r : OpcodeRow} (hrsv : w.extractLsb' 29 3 = 0)
    (hrow : opcodeMap.find? (fun q => q.op == (w.extractLsb' 0 6).toNat) = some r) :
    (CmdFields.ofWord w).wellFormed = (CmdFields.ofWord w).unusedZero r := by
  have hrsv : (CmdFields.ofWord w).rsv = 0 := congrArg BitVec.toNat hrsv
  have hrow : opcodeMap.find? (fun q => q.op == (CmdFields.ofWord w).op) = some r := hrow
  simp [CmdFields.wellFormed, fits_ofWord, hrsv, hrow]

theorem not_wellFormed_of_rsv (hrsv : w.extractLsb' 29 3 ≠ 0) : (CmdFields.ofWord w).wellFormed = false := by
  have hrsv : (CmdFields.ofWord w).rsv ≠ 0 := fun h => hrsv (BitVec.eq_of_toNat_eq h)
  simp [CmdFields.wellFormed, hrsv]

/-- The opcodes 0x00 and 0x14 to 0x3F have no row (R106). -/
theorem not_wellFormed_of_op (hop : (w.extractLsb' 0 6).toNat = 0 ∨ 0x14 ≤ (w.extractLsb' 0 6).toNat) :
    (CmdFields.ofWord w).wellFormed = false := by
  have hrow : opcodeMap.find? (fun q => q.op == (CmdFields.ofWord w).op) = none := by
    refine List.find?_eq_none.2 fun q hq hqop => ?_
    obtain ⟨hlo, hhi⟩ := opcodeMap_op_bounds q hq
    have hqop : q.op = (w.extractLsb' 0 6).toNat := beq_iff_eq.1 hqop
    omega
  simp [CmdFields.wellFormed, hrow]

/-! ### What the decoder can answer -/

/-- The two answers the decoder may give for `w`: the command whose word `w` is, or none when `w` is not well-formed. -/
inductive DecodesTo (w : Word) : Option Instr → Prop where
  | legal (i : Instr) (wf : (CmdFields.ofWord w).wellFormed = true) (enc : encode i = w) : DecodesTo w (some i)
  | illegal (wf : (CmdFields.ofWord w).wellFormed = false) : DecodesTo w none

theorem DecodesTo.encode_eq {i : Instr} (h : DecodesTo w (some i)) : encode i = w := by
  cases h with
  | legal _ _ enc => exact enc

theorem DecodesTo.isSome_eq {d : Option Instr} (h : DecodesTo w d) : d.isSome = (CmdFields.ofWord w).wellFormed := by
  cases h with
  | legal _ wf _ => exact wf.symm
  | illegal wf => exact wf.symm

/-- One row of R107: RSV = 0, `r` is the row of the opcode `op`, and `i` is the row's command over the fields of `w`. -/
theorem DecodesTo.of_row {op : Nat} {r : OpcodeRow} {zero : Bool} {i : Instr} (hrsv : w.extractLsb' 29 3 = 0)
    (hop : (w.extractLsb' 0 6).toNat = op) (hrow : opcodeMap.find? (fun q => q.op == op) = some r)
    (hzero : (CmdFields.ofWord w).unusedZero r = zero)
    (henc : zero = true → encode i =
      pack (BitVec.ofNat 6 op) (w.extractLsb' 6 3) (regField w 9) (regField w 14) (regField w 19) (regField w 24)) :
    DecodesTo w (legalIf zero i) := by
  subst hop
  have hwf := (wellFormed_of_row hrsv hrow).trans hzero
  cases zero with
  | true => exact .legal i hwf ((henc rfl).trans (by rw [BitVec.ofNat_toNat, BitVec.setWidth_eq, pack_fields hrsv]))
  | false => exact .illegal hwf

/-- The decoder's branches: RSV nonzero, no row, OAEP.ENC with no unused field, and the rows whose unused fields are compared. -/
theorem decodesTo_decode (w : Word) : DecodesTo w (decode w) := by
  unfold decode
  dsimp only
  split
  case isTrue hrsv => exact .illegal (not_wellFormed_of_rsv hrsv)
  case isFalse hrsv =>
    have hrsv := not_not.1 hrsv
    split
    case h_11 hop => exact .of_row (zero := true) hrsv hop rfl rfl fun _ => by simp [encode, codeOfAlg_algOfCode]
    case h_20 =>
      -- `split` says that no row's opcode matched as `_ = n → False`, and omega reads `¬`.
      simp only [imp_false] at *
      exact .illegal (not_wellFormed_of_op (by omega))
    all_goals
      refine .of_row hrsv ‹(w.extractLsb' 0 6).toNat = _› rfl (by simp [unusedZero_ofWord]) fun hzero => ?_
      simp only [Bool.and_eq_true, beq_iff_eq] at hzero
      simp [encode, codeOfAlg_algOfCode, hzero]

end

/-! ### The two directions (R107) and the spec's words (R108) -/

/-- Settles O1: each field reads back from the packed word, so the decoder finds the command's row with the unused fields 0. -/
theorem decodeInvertsEncode : Obligations.DecodeInvertsEncode := by
  intro i
  cases i <;>
    simp [encode, decode, legalIf, pack_op, pack_alg, pack_rd, pack_rs1, pack_rs2, pack_rs3, pack_rsv, algOfCode_codeOfAlg]

/-- Settles O2: the decoder answers only commands whose word is the one it read. -/
theorem encodeInvertsDecode : Obligations.EncodeInvertsDecode := by
  intro w i h
  exact DecodesTo.encode_eq (h ▸ decodesTo_decode w)

/-- Settles O3: the decoder answers a command on a well-formed word, and none on any other. -/
theorem decodeAcceptsExactlyWellFormed : Obligations.DecodeAcceptsExactlyWellFormed := by
  intro w
  exact (decodesTo_decode w).isSome_eq

/-- Settles O4: each word evaluates to its command. -/
theorem specWordsDecode : Obligations.SpecWordsDecode := by
  refine ⟨?_, ?_, ?_, ?_, ?_, ?_, ?_, ?_, ?_⟩ <;> decide

end Sys2Proof

namespace Sys2Proof.Machine

/-! ### A word that does not decode (R105) -/

/-- The engine's turn with BUSY = 1 is the engine's step, once the turn is off the schedule (R132). -/
theorem step_engine_busy {s : State} {rest : List Turn} (hb : s.status.busy = true) (hs : s.schedule = .engine :: rest) :
    step s = engineStep (afterTurn s rest) := by
  rw [step, nextTurn_cons hs]
  exact if_pos hb

theorem engineStep_of_decode_none {s : State} (h : decode s.lcmd = none) : engineStep s = .next (s.takeError .illegalCmd) := by
  rw [engineStep, State.fetch, h]
  rfl

/-- Settles O6: a word that is not well-formed does not decode, and an error's completion writes ERRCODE and STATUS only. -/
theorem illegalWordCompletes : Obligations.IllegalWordCompletes := by
  intro s rest hb hs hwf
  have hdecode : decode s.lcmd = none := by simpa [hwf] using decodeAcceptsExactlyWellFormed s.lcmd
  rw [step_engine_busy hb hs]
  exact engineStep_of_decode_none (s := afterTurn s rest) hdecode

end Sys2Proof.Machine
end

section
/-! The host's load sequence (spec/30_encoding.md R109; O53). -/

namespace Sys2Proof.Machine

/-- A run of one step more goes on from the next state. -/
theorem run_succ_of_step {s t : State} (k : Nat) (h : step s = .next t) :
    Host.Core.run Sys2Proof.core (k + 1) s = Host.Core.run Sys2Proof.core k t := by
  have hcore : Sys2Proof.core.step s = .next t := h
  simp only [Host.Core.run, hcore]

/-- `s` with register `i` selected and holding `str`, OSPTR at octet `k`, and the turns `turns` to come. -/
def State.portAt (s : State) (i : RegIdx) (str : OctetString) (k : Nat) (turns : List Turn) : State :=
  { s with schedule := turns, sel := i, osptr := BitVec.ofNat 32 k, osRegs := s.osRegs.set i (some str) }

/-- The OSDATA writes of the load of `str`. -/
def loadWrites (c : Config) (str : OctetString) : List Turn := str.map fun b => mmioWrite c 0x2C (b.setWidth 32)

section
variable {s : State} {i : RegIdx}

/-- The SEL write of the load (R76). -/
theorem step_select {turns : List Turn} (hb : s.status.busy = false)
    (hs : s.schedule = mmioWrite s.cfg 0x20 (BitVec.ofNat 32 i.val) :: turns) :
    step s = .next { s with schedule := turns, sel := i, osptr := 0 } := by
  have hi : Fin.ofNat 32 (BitVec.ofNat 32 i.val).toNat = i := by ext; simp
  rw [step_mmioWrite_idle (by decide) (by decide) hb hs rfl, writeSel_eq, hi]
  rfl

/-- The OSLEN write of the load leaves zero octets in the selected register and OSPTR at the first (R77). -/
theorem step_size {len : Nat} {turns : List Turn} (hb : s.status.busy = false) (hlen : len ≤ s.cfg.osMaxLen)
    (hsmall : len < 2 ^ 31) (hs : s.schedule = mmioWrite s.cfg 0x24 (BitVec.ofNat 32 len) :: turns) :
    step s = .next (s.portAt s.sel (zeros len) 0 turns) := by
  have hv : (BitVec.ofNat 32 len).toNat % 2 ^ 31 = len := by simp; omega
  have hfits : (BitVec.ofNat 32 len).toNat % 2 ^ 31 ≤ (afterTurn s turns).cfg.osMaxLen := hv.symm ▸ hlen
  rw [step_mmioWrite_idle (by decide) (by decide) hb hs rfl, writeOslen_of_le hfits, hv]
  rfl

/-- An OSDATA write of the load replaces the octet behind the octets `done` and moves OSPTR to the next (R80). -/
theorem step_portAt_write (done todo : OctetString) (b c : Byte) (turns : List Turn) (hb : s.status.busy = false)
    (hsmall : done.length < 2 ^ 32) :
    step (s.portAt i (done ++ c :: todo) done.length (mmioWrite s.cfg 0x2C (b.setWidth 32) :: turns)) =
      .next (s.portAt i (done ++ [b] ++ todo) (done ++ [b]).length turns) := by
  have hstep := step_mmioWrite_idle
    (s := s.portAt i (done ++ c :: todo) done.length (mmioWrite s.cfg 0x2C (b.setWidth 32) :: turns))
    (by decide) (by decide) hb rfl rfl
  have hos : (s.portAt i (done ++ c :: todo) done.length turns).os i = some (done ++ c :: todo) := os_setOS_same s i _
  have hptr : (s.portAt i (done ++ c :: todo) done.length turns).osptr.toNat = done.length := Nat.mod_eq_of_lt hsmall
  refine hstep.trans (congrArg _ ((writeOsdata_of_lt _ hos (by rw [hptr]; simp)).trans ?_))
  rw [hptr]
  simp [State.portAt, State.setOS, BitVec.ofNat_add]

/-- The writes of `todo` fill the zero octets behind the octets `done` already written. -/
theorem run_portAt_writes (todo done : OctetString) {rest : List Turn} (hb : s.status.busy = false)
    (hsmall : done.length + todo.length < 2 ^ 32) :
    Host.Core.run Sys2Proof.core todo.length
        (s.portAt i (done ++ zeros todo.length) done.length (loadWrites s.cfg todo ++ rest)) =
      .next (s.portAt i (done ++ todo) (done.length + todo.length) rest) := by
  induction todo generalizing done with
  | nil => rfl
  | cons b todo ih =>
    have hnext : done.length + (b :: todo).length = (done ++ [b]).length + todo.length := by simp; omega
    have hput := step_portAt_write (i := i) done (zeros todo.length) b 0 (loadWrites s.cfg todo ++ rest) hb (by omega)
    rw [hnext, List.append_cons]
    exact (run_succ_of_step todo.length hput).trans (ih (done ++ [b]) (by omega))

end

/-- Settles O53: SEL and OSLEN make room for the string, and the OSDATA writes fill it octet by octet. -/
theorem loadFillsRegister : Obligations.LoadFillsRegister := by
  intro s i str rest hcfg hb hlen
  have hmax : s.cfg.osMaxLen ≤ 2 ^ 20 := by
    simp only [Config.ok, Bool.and_eq_true, decide_eq_true_eq] at hcfg
    omega
  have hwrites := run_portAt_writes (i := i) str [] (rest := rest) hb (by simp; omega)
  rw [List.nil_append, List.nil_append, List.length_nil, Nat.zero_add] at hwrites
  have hselect := step_select (s := { s with schedule := hostLoad s.cfg i str ++ rest }) hb rfl
  have hsize := step_size (s := { s with
    schedule := mmioWrite s.cfg 0x24 (BitVec.ofNat 32 str.length) :: (loadWrites s.cfg str ++ rest), sel := i, osptr := 0 })
    hb hlen (by omega) rfl
  rw [Nat.add_comm]
  exact (run_succ_of_step (str.length + 1) hselect).trans ((run_succ_of_step str.length hsize).trans hwrites)

end Sys2Proof.Machine
end

section
/-! Issue, the engine's step and its completion (spec/40_common.md R131 to R138; O5, O7, O8, O9, O14, O18, O50). -/

namespace Sys2Proof.Machine

/-! ### The engine's turn (R132) -/

/-- An empty schedule and an engine at its head are the same turn, taken off the schedule. -/
theorem step_of_engineNext {s : State} (h : engineNext s) : step s = engineTurn (afterTurn s s.schedule.tail) := by
  have hturn : s.nextTurn.1 = .engine := by
    obtain hnil | hhead := h
    · rw [nextTurn_nil hnil]
    · obtain ⟨rest, hcons⟩ := List.head?_eq_some_iff.1 hhead
      rw [nextTurn_cons hcons]
  have hnext : s.nextTurn = (.engine, afterTurn s s.schedule.tail) := Prod.ext hturn (nextTurn_snd s)
  rw [step, hnext]

theorem engineTurn_of_busy {s : State} (h : s.status.busy = true) : engineTurn s = engineStep s := if_pos h

theorem engineTurn_of_idle {s : State} (h : s.status.busy = false) : engineTurn s = .next s := by
  simp [engineTurn, h, idle]

theorem engineStep_of_decode {s : State} {i : Instr} (h : decode s.lcmd = some i) : engineStep s = exec i s := by
  simp [engineStep, State.fetch, h]

/-- With BUSY = 1 and nothing scheduled the engine steps on the state as it stands. -/
theorem step_nil_busy {s : State} (hb : s.status.busy = true) (hs : s.schedule = []) : step s = engineStep s := by
  rw [step, nextTurn_nil hs]
  exact engineTurn_of_busy hb

/-- Settles O5: the engine's step fetches LCMD, and a word that decodes is executed. -/
theorem engineRunsDecodedCommand : Obligations.EngineRunsDecodedCommand := by
  intro s i hb hi
  refine ⟨fun rest hs => ?_, fun hs => ?_⟩
  · exact (step_engine_busy hb hs).trans (engineStep_of_decode (s := afterTurn s rest) hi)
  · exact (step_nil_busy hb hs).trans (engineStep_of_decode hi)

/-! ### Completion (R133, R450) -/

/-- Whether or not the latched word decodes, the engine's step is the completion of some run. -/
theorem engineStep_completes (s : State) : ∃ r, engineStep s = .next (s.complete r) := by
  cases hi : decode s.lcmd with
  | some i =>
    obtain ⟨r, hr, -⟩ := exec_runs i s
    exact ⟨r, (engineStep_of_decode hi).trans hr⟩
  | none => exact ⟨.error .illegalCmd, engineStep_of_decode_none hi⟩

theorem step_busy_completes {s : State} (h : engineNext s) (hb : s.status.busy = true) :
    ∃ t, step s = .next t ∧ t.status.busy = false ∧ t.status.done = true := by
  obtain ⟨r, hr⟩ := engineStep_completes (afterTurn s s.schedule.tail)
  have hturn : engineTurn (afterTurn s s.schedule.tail) = engineStep (afterTurn s s.schedule.tail) := engineTurn_of_busy hb
  exact ⟨_, (step_of_engineNext h).trans (hturn.trans hr), complete_busy _ r, complete_done _ r⟩

/-- Settles O8: the engine's turn is its step when BUSY = 1, which completes, and nothing when BUSY = 0. -/
theorem everyIssuedCommandCompletes : Obligations.EveryIssuedCommandCompletes := by
  intro s h
  exact ⟨step_busy_completes h, fun hb => (step_of_engineNext h).trans (engineTurn_of_idle hb)⟩

/-- An admitted access while BUSY = 1 leaves the command running and takes its own turn off the schedule. -/
theorem step_host_busy {s : State} {a : HostAccess} {rest : List Turn} (hb : s.status.busy = true)
    (hs : s.schedule = .host a :: rest) (ha : (a.offset s.cfg).isSome) :
    ∃ t, step s = .next t ∧ t.status.busy = true ∧ t.schedule = rest ∧ t.cfg = s.cfg := by
  obtain ⟨off, hoff⟩ := Option.isSome_iff_exists.1 ha
  have hsame : SameButFlags (afterTurn s rest) ((afterTurn s rest).access a off) :=
    access_sameButFlags (s := afterTurn s rest) hb a off
  exact ⟨_, (step_host hs).trans (hostTurn_of_offset hoff), (congrArg (·.status.busy) hsame).trans hb,
    congrArg (·.schedule) hsame, congrArg (·.cfg) hsame⟩

/-- Some run of at most `n` turns from `s` ends with the command completed. -/
def CompletesWithin (n : Nat) (s : State) : Prop :=
  ∃ (k : Nat) (t : State), k ≤ n ∧ Host.Core.run Sys2Proof.core k s = .next t ∧ t.status.busy = false ∧ t.status.done = true

theorem completesWithin_of_engineNext {s : State} (n : Nat) (h : engineNext s) (hb : s.status.busy = true) :
    CompletesWithin (n + 1) s := by
  obtain ⟨t, hstep, hdone⟩ := step_busy_completes h hb
  exact ⟨1, t, Nat.le_add_left .., run_succ_of_step 0 hstep, hdone⟩

theorem CompletesWithin.of_step {n : Nat} {s t : State} (h : CompletesWithin n t) (hstep : step s = .next t) :
    CompletesWithin (n + 1) s := by
  obtain ⟨k, u, hk, hrun, hdone⟩ := h
  exact ⟨k + 1, u, Nat.succ_le_succ hk, (run_succ_of_step k hstep).trans hrun, hdone⟩

/-- Every turn before the engine's is an admitted access, so each leaves the command running and the schedule one turn shorter. -/
theorem completesWithin_of_admitted (turns : List Turn) {s : State} (hs : s.schedule = turns) (hb : s.status.busy = true)
    (hadm : ∀ x ∈ turns, x ≠ .reset ∧ ∀ a, x = .host a → (a.offset s.cfg).isSome) :
    CompletesWithin (turns.length + 1) s := by
  induction turns generalizing s with
  | nil => exact completesWithin_of_engineNext _ (.inl hs) hb
  | cons x rest ih =>
    obtain ⟨⟨hreset, hoffset⟩, hrest⟩ := List.forall_mem_cons.1 hadm
    cases x with
    | engine => exact completesWithin_of_engineNext _ (.inr (by rw [hs]; rfl)) hb
    | reset => exact absurd rfl hreset
    | host a =>
      obtain ⟨t, hstep, htb, hts, hcfg⟩ := step_host_busy hb hs (hoffset a rfl)
      exact (ih hts htb (by rwa [hcfg])).of_step hstep

/-- Settles O9: by induction on the turns scheduled before the engine's. -/
theorem busyCommandCompletesInBoundedTurns : Obligations.BusyCommandCompletesInBoundedTurns := by
  intro s hb hadm
  exact completesWithin_of_admitted s.schedule rfl hb hadm

/-! ### Issue (R131) -/

/-- The step after `withFetchWord` is the engine's, on the state the accepted issue leaves. -/
theorem step_withFetchWord (s : State) (nbits w : Nat) :
    step (s.withFetchWord nbits w) = engineStep (s.acceptCommand (BitVec.ofNat 32 (w % 2 ^ nbits))) :=
  step_engine_busy (s := s.withFetchWord nbits w) (rest := s.schedule) rfl rfl

/-- Settles O7: the issued word is the one the table decodes. -/
theorem fetchWordRunsNext : Obligations.FetchWordRunsNext := by
  intro s nbits w i hi
  rw [step_withFetchWord]
  exact engineStep_of_decode hi

/-- Settles O50: a CMD write is an issue, which BUSY lets through or turns into CMDOVF. -/
theorem issueLatchesCommand : Obligations.IssueLatchesCommand := by
  intro s rest w hs
  have hstep : step s = .next ((afterTurn s rest).issue w) := step_mmioWrite (by decide) (by decide) hs
  exact ⟨fun hb => hstep.trans (congrArg _ (issue_of_busy w hb)), fun hb => hstep.trans (congrArg _ (issue_of_idle w hb))⟩

/-! ### Precise errors (R137) -/

/-- Settles O14: issue cleared ERRCODE, so only a run that fails leaves a code, and taking the error writes ERRCODE and STATUS only. -/
theorem errorsArePrecise : Obligations.ErrorsArePrecise := by
  intro s t w c _ hstep hc
  have hw : BitVec.ofNat 32 (w.toNat % 2 ^ 32) = w := by simp [Nat.mod_eq_of_lt w.isLt]
  obtain ⟨r, hr⟩ := engineStep_completes (s.acceptCommand w)
  rw [step_withFetchWord, hw, hr, Host.Outcome.next.injEq] at hstep
  subst hstep
  cases r with
  | ok d => simp at hc
  | error e =>
    obtain rfl : e = c := Option.some.inj hc
    rfl

/-! ### The frame of a command (R133, R136, R138) -/

/-- A completion writes the register files, STATUS, ERRCODE, CTITER and the draw counter, and nothing else. -/
theorem complete_frame (s : State) (r : RunResult) :
    s.complete r = { s with
      osRegs := (s.complete r).osRegs, nRegs := (s.complete r).nRegs, status := (s.complete r).status
      errcode := (s.complete r).errcode, ctiter := (s.complete r).ctiter, drawCount := (s.complete r).drawCount } := by
  rcases r with c | ⟨_ | ⟨i, v⟩ | ⟨i, v⟩, res, iter, draws⟩ <;> rfl

@[simp] theorem complete_cmdovf (s : State) (r : RunResult) : (s.complete r).status.cmdovf = s.status.cmdovf := by
  cases r <;> simp

@[simp] theorem complete_hosterr (s : State) (r : RunResult) : (s.complete r).status.hosterr = s.status.hosterr := by
  cases r <;> simp

section
variable {i : Instr} {s : State} {r : RunResult} (h : ∀ d, r = .ok d → DoneShape i s d)
include h

theorem complete_os_of_not_dest {j : RegIdx} (hj : destOS i ≠ some j) : (s.complete r).os j = s.os j := by
  cases r with
  | error c => rfl
  | ok d => exact ((h d rfl).os_cases j).resolve_right fun hdest => hj hdest.1

theorem complete_n_of_not_dest {j : RegIdx} (hj : destN i ≠ some j) : (s.complete r).n j = s.n j := by
  cases r with
  | error c => rfl
  | ok d => exact ((h d rfl).n_cases j).resolve_right fun hdest => hj hdest.1

theorem complete_ctiter_of_ne_cteq (hi : ∀ r1 r2, i ≠ .cteq r1 r2) : (s.complete r).ctiter = s.ctiter := by
  cases r with
  | error c => rfl
  | ok d =>
    obtain ⟨-, hiter⟩ := h d rfl
    rw [complete_ok, completeOk_ctiter, hiter hi]
    rfl

end

/-- Settles O18: a command completes with the outcome of a run of its shape, and each clause holds of every such completion. -/
theorem commandFrame : Obligations.CommandFrame := by
  intro i s t hstep
  obtain ⟨r, hr, hshape⟩ := exec_runs i s
  rw [hr, finish_eq, Host.Outcome.next.injEq] at hstep
  subst hstep
  exact ⟨fun _ => complete_os_of_not_dest hshape, fun _ => complete_n_of_not_dest hshape,
    complete_ctiter_of_ne_cteq hshape, complete_cmdovf s r, complete_hosterr s r, complete_frame s r⟩

end Sys2Proof.Machine
end

section
/-! The SHA round engine and HASH (spec/41_hash.md R160 to R179; O21, O22, O23). -/

namespace Sys2Proof.Machine

/-! ### Padding (R161) -/

section
variable {bs : Nat} (hbs : bs = 64 ∨ bs = 128)
include hbs

/-- `padZeros` fills whole blocks together with 0x80 and the length field. -/
theorem padZeros_fills (len : Nat) : (len + 1 + padZeros bs len + lengthField bs) % bs = 0 := by
  obtain rfl | rfl := hbs <;> simp only [padZeros, lengthField] <;> omega

/-- No smaller number of zero octets fills whole blocks. -/
theorem padZeros_least {len y : Nat} (hy : y < padZeros bs len) : (len + 1 + y + lengthField bs) % bs ≠ 0 := by
  obtain rfl | rfl := hbs <;> simp only [padZeros, lengthField] at hy ⊢ <;> omega

/-- The zero run is shorter than a block. -/
theorem padZeros_lt (len : Nat) : padZeros bs len < bs := by
  obtain rfl | rfl := hbs <;> exact Nat.mod_lt _ (by decide)

/-- Pad(M) is `k` blocks when M, 0x80 and the length field fit in `k` blocks and in no fewer. -/
theorem pad_length_eq_mul {m : OctetString} {k : Nat} (hlo : k * bs < m.length + 1 + lengthField bs + bs)
    (hhi : m.length + 1 + lengthField bs ≤ k * bs) : (pad bs m).length = k * bs := by
  have hfill := padZeros_fills hbs m.length
  have hlt := padZeros_lt hbs m.length
  rw [pad_length]
  obtain rfl | rfl := hbs <;> omega

end

/-- Settles O22: `padZeros` is the least filling, and M, 0x80 and the length field need one block or two. -/
theorem paddingIsLeast : Obligations.PaddingIsLeast := by
  intro bs m hbs F
  have hF : lengthField bs = F := rfl
  have hFbs : lengthField bs < bs := by obtain rfl | rfl := hbs <;> decide
  refine ⟨⟨padZeros bs m.length, rfl, padZeros_fills hbs m.length, fun y => padZeros_least hbs⟩,
    fun h => ?_, fun hlo hhi => ?_⟩
  · rw [pad_length_eq_mul hbs (k := 1) (by omega) (by omega), Nat.one_mul]
  · exact pad_length_eq_mul hbs (by omega) (by omega)

/-! ### The message schedules (R165, R168, R171) -/

section
variable {w : Nat} {block : List (BitVec w)} (hblock : block.length = 16)
include hblock

theorem schedule_length_of_block (next : List (BitVec w) → BitVec w) (c : Nat) : (schedule next c block).length = 16 + c := by
  rw [schedule_length, hblock]

theorem schedule_getD_of_block (next : List (BitVec w) → BitVec w) (c : Nat) {t : Nat} (ht : t < 16) :
    (schedule next c block).getD t 0 = block.getD t 0 :=
  schedule_block next c block (hblock ▸ ht)

/-- The word `next` sees at place `j` when it makes W_t is W_{t−(j+1)}. -/
theorem schedule_earlier (next : List (BitVec w) → BitVec w) {c t j : Nat} (hlo : 16 ≤ t) (hhi : t < 16 + c) (hj : j < 16) :
    (schedule next (t - 16) block).reverse.getD j 0 = (schedule next c block).getD (t - (j + 1)) 0 := by
  rw [schedule_back next block (by omega : t - 16 < c) (by omega)]
  congr 1
  omega

/-- A word after the block's is `next` of the words before it. -/
theorem schedule_word (next : List (BitVec w) → BitVec w) {c t : Nat} (hlo : 16 ≤ t) (hhi : t < 16 + c) :
    (schedule next c block).getD t 0 = next (schedule next (t - 16) block).reverse := by
  have h := schedule_next next block (by omega : t - 16 < c)
  rwa [hblock, Nat.add_sub_cancel' hlo] at h

/-- The SHA-2 recurrence, over the two functions of the word size (R168, R171). -/
theorem schedule_sha2Next (sigma0 sigma1 : BitVec w → BitVec w) {c t : Nat} (hlo : 16 ≤ t) (hhi : t < 16 + c) :
    let W := schedule (sha2Next sigma0 sigma1) c block
    W.getD t 0 = sigma1 (W.getD (t - 2) 0) + W.getD (t - 7) 0 + sigma0 (W.getD (t - 15) 0) + W.getD (t - 16) 0 := by
  dsimp only
  rw [schedule_word hblock _ hlo hhi]
  simp (disch := decide) only [sha2Next, schedule_earlier hblock _ hlo hhi]

end

/-- The SHA-1 recurrence (R165). -/
theorem schedule_sha1Next {block : List (BitVec 32)} (hblock : block.length = 16) {c t : Nat} (hlo : 16 ≤ t) (hhi : t < 16 + c) :
    let W := schedule sha1Next c block
    W.getD t 0 = rotl 1 (W.getD (t - 3) 0 ^^^ W.getD (t - 8) 0 ^^^ W.getD (t - 14) 0 ^^^ W.getD (t - 16) 0) := by
  dsimp only
  rw [schedule_word hblock _ hlo hhi]
  simp (disch := decide) only [sha1Next, schedule_earlier hblock _ hlo hhi]

/-- Settles O23: each schedule is its block, extended by the recurrence of its `next`. -/
theorem scheduleRecurrences : Obligations.ScheduleRecurrences := by
  refine ⟨fun b hb => ⟨schedule_length_of_block hb _ _, fun t => schedule_getD_of_block hb _ _, fun t => ?_⟩,
    fun b hb => ⟨schedule_length_of_block hb _ _, fun t => schedule_getD_of_block hb _ _, fun t => ?_⟩,
    fun b hb => ⟨schedule_length_of_block hb _ _, fun t => schedule_getD_of_block hb _ _, fun t => ?_⟩⟩
  · exact schedule_sha1Next (c := 64) hb
  · exact schedule_sha2Next (c := 48) hb sigma0_256 sigma1_256
  · exact schedule_sha2Next (c := 64) hb sigma0_512 sigma1_512

/-! ### Rounds and compression (R164, R166, R167, R169, R170, R172) -/

/-- f_t with R164's bounds. -/
theorem sha1F_eq (t : Nat) (x y z : BitVec 32) : sha1F t x y z =
    if t < 20 then (x &&& y) ^^^ (~~~x &&& z) else if t < 40 then x ^^^ y ^^^ z
      else if t < 60 then (x &&& y) ^^^ (x &&& z) ^^^ (y &&& z) else x ^^^ y ^^^ z := by
  simp only [sha1F, ch, parity, maj, Nat.lt_succ_iff]

/-- K_t with R164's bounds. -/
theorem sha1K_eq (t : Nat) : sha1K t =
    if t < 20 then 0x5a827999 else if t < 40 then 0x6ed9eba1 else if t < 60 then 0x8f1bbcdc else 0xca62c1d6 := by
  simp only [sha1K, Nat.lt_succ_iff]

theorem take_succ_getD {α : Type} {l : List α} (d : α) {t : Nat} (h : t < l.length) :
    l.take (t + 1) = l.take t ++ [l.getD t d] := by
  rw [List.getD_eq_getElem _ _ h, List.take_succ_eq_append_getElem h]

/-- The working variables before round t of SHA-1, from `v` over the schedule `ws`. -/
def sha1Vars (ws : List (BitVec 32)) (v : Vars5 32) (t : Nat) : Vars5 32 := sha1Rounds 0 (ws.take t) v

theorem sha1Vars_succ {ws : List (BitVec 32)} (v : Vars5 32) {t : Nat} (h : t < ws.length) :
    sha1Vars ws v (t + 1) = sha1Round t (ws.getD t 0) (sha1Vars ws v t) := by
  rw [sha1Vars, take_succ_getD 0 h, sha1Rounds_append, List.length_take, Nat.zero_add, Nat.min_eq_left h.le, sha1Vars]

theorem sha1Vars_of_length {ws : List (BitVec 32)} (v : Vars5 32) {n : Nat} (h : ws.length = n) :
    sha1Vars ws v n = sha1Rounds 0 ws v := by
  rw [sha1Vars, List.take_of_length_le h.le]

/-- The model's SHA-1 compression is R166's, over its own schedule and working variables. -/
theorem isCompress1_compress1 (h : Vars5 32) {block : List (BitVec 32)} (hblock : block.length = 16) :
    IsCompress1 h block (compress1 h block) := by
  have hlen : (schedule sha1Next (roundCount .sha1 - 16) block).length = 80 := schedule_length_of_block hblock _ _
  refine ⟨((schedule sha1Next (roundCount .sha1 - 16) block).getD · 0),
    sha1Vars (schedule sha1Next (roundCount .sha1 - 16) block) h,
    fun _ => schedule_getD_of_block hblock _ _, fun t hlo hhi => ?_, rfl, fun t ht => ?_, ?_⟩
  · rw [← rotl_eq_rotateLeft _ (by decide)]
    exact schedule_sha1Next hblock hlo hhi
  · have hround := sha1Vars_succ h (by rwa [hlen] : t < _)
    rwa [sha1Round, rotl_eq_rotateLeft _ (by decide), rotl_eq_rotateLeft _ (by decide), sha1F_eq, sha1K_eq] at hround
  · rw [sha1Vars_of_length h hlen, compress1]

section
variable {w : Nat} {bigSigma0 bigSigma1 : BitVec w → BitVec w}

variable (bigSigma0 bigSigma1) in
/-- The working variables before round t of SHA-2, from `v` over the constants `ks` and the schedule `ws`. -/
def sha2Vars (ks ws : List (BitVec w)) (v : Vars8 w) (t : Nat) : Vars8 w :=
  sha2Rounds bigSigma0 bigSigma1 (ks.take t) (ws.take t) v

theorem sha2Vars_succ {ks ws : List (BitVec w)} (v : Vars8 w) {t : Nat} (hlen : ws.length = ks.length) (ht : t < ks.length) :
    sha2Vars bigSigma0 bigSigma1 ks ws v (t + 1) =
      sha2Round bigSigma0 bigSigma1 (ks.getD t 0) (ws.getD t 0) (sha2Vars bigSigma0 bigSigma1 ks ws v t) := by
  have htake : (ks.take t).length = (ws.take t).length := by rw [List.length_take, List.length_take, hlen]
  rw [sha2Vars, take_succ_getD 0 ht, take_succ_getD 0 (hlen ▸ ht), sha2Rounds_append _ _ _ _ htake, sha2Vars]

theorem sha2Vars_of_length {ks ws : List (BitVec w)} (v : Vars8 w) (hlen : ws.length = ks.length) :
    sha2Vars bigSigma0 bigSigma1 ks ws v ks.length = sha2Rounds bigSigma0 bigSigma1 ks ws v := by
  rw [sha2Vars, List.take_length, ← hlen, List.take_length]

/-- The model's SHA-2 loop is R169's, whatever its constants and its four functions are. -/
theorem isCompress2_sha2Rounds {sigma0 sigma1 : BitVec w → BitVec w} {ks block : List (BitVec w)} (h : Vars8 w)
    (hblock : block.length = 16) {c : Nat} (hks : ks.length = 16 + c) :
    IsCompress2 ks bigSigma0 bigSigma1 sigma0 sigma1 h block
      (h.add (sha2Rounds bigSigma0 bigSigma1 ks (schedule (sha2Next sigma0 sigma1) c block) h)) := by
  have hlen : (schedule (sha2Next sigma0 sigma1) c block).length = ks.length :=
    (schedule_length_of_block hblock _ _).trans hks.symm
  refine ⟨((schedule (sha2Next sigma0 sigma1) c block).getD · 0),
    sha2Vars bigSigma0 bigSigma1 ks (schedule (sha2Next sigma0 sigma1) c block) h,
    fun _ => schedule_getD_of_block hblock _ _, fun t hlo hhi => schedule_sha2Next hblock _ _ hlo (hks ▸ hhi), rfl,
    fun t => sha2Vars_succ h hlen, ?_⟩
  rw [sha2Vars_of_length h hlen, Vars8.add]

end

/-- R167 to R169, its rotations being the model's `rotr`. -/
theorem isCompress256_compress256 (h : Vars8 32) {block : List (BitVec 32)} (hblock : block.length = 16) :
    IsCompress256 h block (compress256 h block) := by
  refine ⟨rfl, ?_⟩
  simp (disch := decide) only [← rotr_eq_rotateRight]
  exact isCompress2_sha2Rounds (c := 48) h hblock rfl

/-- R170 to R172, its rotations being the model's `rotr`. -/
theorem isCompress512_compress512 (h : Vars8 64) {block : List (BitVec 64)} (hblock : block.length = 16) :
    IsCompress512 h block (compress512 h block) := by
  refine ⟨rfl, ?_⟩
  simp (disch := decide) only [← rotr_eq_rotateRight]
  exact isCompress2_sha2Rounds (c := 64) h hblock rfl

/-! ### Parsing (R162) -/

/-- A word of w bits holds the value of w/8 octets. -/
theorem ofNat_os2ip_toNat {w : Nat} {s : OctetString} (h : s.length ≤ w / 8) : (BitVec.ofNat w (os2ip s)).toNat = os2ip s := by
  rw [BitVec.toNat_ofNat, Nat.mod_eq_of_lt]
  calc os2ip s < 256 ^ s.length := os2ip_lt s
    _ = 2 ^ (8 * s.length) := (pow_mul 2 8 _).symm
    _ ≤ 2 ^ w := Nat.pow_le_pow_right (by decide) (by omega)

@[simp] theorem blockWords_length (w : Nat) (block : OctetString) : (blockWords w block).length = 16 := by
  simp [blockWords]

/-- Word j of a block, big-endian. -/
theorem blockWords_getD (w : Nat) (block : OctetString) {j : Nat} (hj : j < 16) :
    ((blockWords w block).getD j 0).toNat = os2ip ((block.drop (j * (w / 8))).take (w / 8)) := by
  rw [blockWords, List.getD_eq_getElem?_getD, List.getElem?_map, chunks_getElem? _ _ _ hj, Option.map_some, Option.getD_some,
    ofNat_os2ip_toNat (List.length_take_le _ _)]

/-- Block i of the padded message, as words. -/
theorem parse_getD {w bs i : Nat} {m : OctetString} (hi : i < (pad bs m).length / bs) :
    (parse w bs m).getD i [] = blockWords w (((pad bs m).drop (i * bs)).take bs) := by
  rw [parse, List.getD_eq_getElem?_getD, List.getElem?_map, chunks_getElem? _ _ _ hi, Option.map_some, Option.getD_some]

/-- The model cuts Pad(M) into blocks and each block into words; R162 cuts the words out of Pad(M) directly. -/
theorem isParse_parse {w bs : Nat} (m : OctetString) (hbs : bs = 16 * (w / 8)) :
    IsParse w bs (pad bs m) ((parse w bs m).getD · []) := by
  intro i hi
  dsimp only
  rw [parse_getD hi]
  refine ⟨blockWords_length _ _, fun j hj => ?_⟩
  have hword : j * (w / 8) + w / 8 ≤ bs := by
    rw [← Nat.succ_mul, hbs]; exact Nat.mul_le_mul_right _ hj
  rw [blockWords_getD w _ hj, List.drop_take, List.take_take, List.drop_drop, Nat.min_eq_left (by omega), slice,
    Nat.add_sub_add_left, Nat.succ_mul, Nat.add_sub_cancel_left]

/-! ### Iteration and output (R175 to R177) -/

section
variable {w : Nat} {H : Type} {compress : H → List (BitVec w) → H} (iv : H)

variable (compress) in
/-- The state before block i, counted from 0 (R175). -/
def stateBefore (blocks : List (List (BitVec w))) (i : Nat) : H := iterate compress iv (blocks.take i)

theorem stateBefore_succ {blocks : List (List (BitVec w))} {i : Nat} (h : i < blocks.length) :
    stateBefore compress iv blocks (i + 1) = compress (stateBefore compress iv blocks i) (blocks.getD i []) := by
  rw [stateBefore, take_succ_getD [] h, iterate, List.foldl_concat, stateBefore, iterate]

theorem stateBefore_length (blocks : List (List (BitVec w))) :
    stateBefore compress iv blocks blocks.length = iterate compress iv blocks := by
  rw [stateBefore, List.take_length]

/-- Once `compress` meets the rules' relation on every block of sixteen words, the truncated output is the digest the rules give. -/
theorem isHash_iterate {rel : H → List (BitVec w) → H → Prop} {words : H → List (BitVec w)} (m : OctetString) {bs n c : Nat}
    (hrel : ∀ h block, block.length = 16 → rel h block (compress h block)) (hw : 0 < w / 8) (hbs : bs = 16 * (w / 8))
    (hwords : ∀ h, (words h).length = c) (hn : n ≤ c * (w / 8)) :
    IsHash bs n rel words iv m ((serialize (words (iterate compress iv (parse w bs m)))).take n) := by
  have hparse := isParse_parse m hbs
  have hserial : ∀ h, n ≤ (words h).length * (w / 8) := fun h => (hwords h).symm ▸ hn
  have hcount : (pad bs m).length / bs = (parse w bs m).length := by simp [parse]
  refine ⟨_, stateBefore compress iv (parse w bs m), hparse, rfl, fun i hi => ?_, ?_, fun k hk => ?_⟩
  · rw [stateBefore_succ iv (hcount ▸ hi)]
    exact hrel _ _ (hparse i hi).1
  · rw [List.length_take, serialize_length, Nat.min_eq_left (hserial _)]
  · rw [hcount, stateBefore_length, ← serialize_getD _ hw (hk.trans_le (hserial _)), List.getD_eq_getElem?_getD,
      List.getElem?_take_of_lt hk, List.getD_eq_getElem?_getD]

end

theorem isHash_sha256From {n : Nat} (iv : Vars8 32) (m : OctetString) (hn : n ≤ 32) :
    IsHash 64 n IsCompress256 Vars8.words iv m ((sha256From iv m).take n) :=
  isHash_iterate (c := 8) iv m (fun h _ => isCompress256_compress256 h) (by decide) rfl (fun _ => rfl) hn

theorem isHash_sha512From {n : Nat} (iv : Vars8 64) (m : OctetString) (hn : n ≤ 64) :
    IsHash 128 n IsCompress512 Vars8.words iv m ((sha512From iv m).take n) :=
  isHash_iterate (c := 8) iv m (fun h _ => isCompress512_compress512 h) (by decide) rfl (fun _ => rfl) hn

theorem isDigest_hashOf (a : HashAlg) (m : OctetString) : IsDigest a m (hashOf a m) := by
  cases a with
  | sha1 => exact isHash_iterate (c := 5) ivSha1 m (fun h _ => isCompress1_compress1 h) (by decide) rfl (fun _ => rfl) (by decide)
  | sha224 => exact isHash_sha256From ivSha224 m (by decide)
  | sha256 => exact isHash_sha256From ivSha256 m (by decide)
  | sha384 => exact isHash_sha512From ivSha384 m (by decide)
  | sha512 => exact isHash_sha512From ivSha512 m (by decide)
  | sha512_224 => exact isHash_sha512From ivSha512_224 m (by decide)
  | sha512_256 => exact isHash_sha512From ivSha512_256 m (by decide)

/-! ### The command (R179) -/

/-- A body that ends in `WriteOS` without a draw completes with its string written. -/
theorem finish_doneOS (s : State) (rd : RegIdx) (v : OctetString) : finish s (doneOS rd v) = .next (wroteOS s rd v) := rfl

/-- Settles O21: the message is read and its digest written, and the digest is the one of R160 to R177. -/
theorem hashWritesDigest : Obligations.HashWritesDigest := by
  intro a rd rs1 s m hm
  refine ⟨?_, isDigest_hashOf a m⟩
  simp only [exec, execHash, needAlg_some, ok_bind, readOS_of_some hm, finish_doneOS]

end Sys2Proof.Machine
end

section
/-! The MGF1 generator and its command (spec/43_mgf1.md R220, R221; O24, O25). -/

namespace Sys2Proof.Machine

/-! ### The mask by counter (R220) -/

/-- In a concatenation of pieces of one length n, element j is element j mod n of piece j / n. -/
theorem getElem?_flatMap_of_length {α β : Type} {f : α → List β} {n : Nat} (hn : 0 < n) (hf : ∀ x, (f x).length = n)
    (l : List α) (j : Nat) : (l.flatMap f)[j]? = l[j / n]?.bind fun x => (f x)[j % n]? := by
  induction l generalizing j with
  | nil => rfl
  | cons x xs ih =>
    rw [List.flatMap_cons]
    by_cases hj : j < n
    · rw [List.getElem?_append_left ((hf x).symm ▸ hj), Nat.div_eq_of_lt hj, Nat.mod_eq_of_lt hj]
      rfl
    · obtain ⟨k, rfl⟩ := Nat.exists_eq_add_of_le (Nat.not_lt.1 hj)
      rw [List.getElem?_append_right ((hf x).symm ▸ Nat.le_add_right n k), hf, Nat.add_sub_cancel_left, ih,
        Nat.add_div_left _ hn, Nat.add_mod_left, List.getElem?_cons_succ]

@[simp] theorem mgf1Block_length (a : HashAlg) (seed : OctetString) (counter : Nat) :
    (mgf1Block a seed counter).length = hLen a :=
  hashOf_length a _

/-- The loop reaches the counter of every octet of the mask. -/
theorem div_hLen_lt_ceilDiv (a : HashAlg) {j maskLen : Nat} (hj : j < maskLen) : j / hLen a < ceilDiv maskLen (hLen a) :=
  (Nat.div_lt_iff_lt_mul (hLen_pos a)).2 (hj.trans_le (le_ceilDiv_mul maskLen (hLen_pos a)))

theorem mgf1_getElem? (a : HashAlg) (seed : OctetString) {j maskLen : Nat} (hj : j < maskLen) :
    (mgf1 a seed maskLen)[j]? = (mgf1Block a seed (j / hLen a))[j % hLen a]? := by
  rw [mgf1, List.getElem?_take_of_lt hj, getElem?_flatMap_of_length (hLen_pos a) (mgf1Block_length a seed),
    List.getElem?_range (div_hLen_lt_ceilDiv a hj), Option.bind_some]

/-- Settles O24: the mask is cut from blocks of hLen octets each, in the order of their counters. -/
theorem mgf1OctetsByCounter : Obligations.Mgf1OctetsByCounter := by
  intro a seed maskLen
  refine ⟨mgf1_length a seed maskLen, fun j hj => ?_⟩
  rw [List.getD_eq_getElem?_getD, mgf1_getElem? a seed hj, ← List.getD_eq_getElem?_getD, mgf1Block]

/-! ### The command (R221) -/

/-- A body that raises an error completes with it, and nothing else changes. -/
theorem finish_error (s : State) (c : ErrCode) : finish s (.error c) = .next (errored s c) := rfl

/-- With ALG in 0..6 and a valid seed only the capacity check is left. -/
theorem exec_mgf1_of_some (a : HashAlg) (rd : RegIdx) {rs1 : RegIdx} {s : State} {seed : OctetString} (hseed : s.os rs1 = some seed) :
    exec (.mgf1 (some a) rd rs1) s =
      finish s (needCapacity s s.lparam0.toNat >>= fun _ => doneOS rd (mgf1 a seed s.lparam0.toNat)) := by
  simp only [exec, execMgf1, needAlg_some, ok_bind, readOS_of_some hseed, State.p0]

/-- Settles O25: the capacity check passes exactly when PARAM0 ≤ OS_MAXLEN. -/
theorem mgf1WritesMask : Obligations.Mgf1WritesMask := by
  intro a rd rs1 s seed hseed
  rw [exec_mgf1_of_some a rd hseed]
  refine ⟨fun hfits => ?_, fun hlong => ?_⟩
  · rw [needCapacity_of_le hfits, ok_bind, finish_doneOS]
  · rw [needCapacity_of_lt hlong, error_bind, finish_error]

end Sys2Proof.Machine
end

section
/-! The converter between octet strings and integers and its commands (spec/44_conversion.md R230 to R234; O26 to O28). -/

namespace Sys2Proof.Machine

/-! ### The value of a string (R231) and its uniqueness (R234) -/

/-- The recursion of `os2ip` is the sum of R231, octet 0 the most significant. -/
theorem os2ip_eq_sum (X : OctetString) :
    os2ip X = (Finset.range X.length).sum fun j => (X.getD j 0).toNat * 256 ^ (X.length - 1 - j) := by
  induction X with
  | nil => rfl
  | cons b bs ih =>
    rw [List.length_cons, Finset.sum_range_succ', os2ip, ih, Nat.add_comm]
    refine congrArg₂ (· + ·) (Finset.sum_congr rfl fun j _ => ?_) rfl
    rw [List.getD_cons_succ, Nat.add_sub_cancel, Nat.sub_sub, Nat.add_comm 1 j]

/-- The octets after the first stay below the first one's place. -/
theorem os2ip_cons_div (b : Byte) (bs : OctetString) : os2ip (b :: bs) / 256 ^ bs.length = b.toNat := by
  rw [os2ip, Nat.mul_comm, Nat.mul_add_div (Nat.pow_pos (by decide)), Nat.div_eq_of_lt (os2ip_lt bs), Nat.add_zero]

/-- Two strings of one length and one value are the same string: their first octets are the same quotient of the value. -/
theorem eq_of_os2ip_eq {X Y : OctetString} (hlen : X.length = Y.length) (hval : os2ip X = os2ip Y) : X = Y := by
  induction X generalizing Y with
  | nil => exact (List.eq_nil_of_length_eq_zero hlen.symm).symm
  | cons b bs ih =>
    cases Y with
    | nil => contradiction
    | cons c cs =>
      have htail : bs.length = cs.length := Nat.succ.inj hlen
      have hhead : b = c := BitVec.eq_of_toNat_eq (by rw [← os2ip_cons_div b bs, hval, htail, os2ip_cons_div])
      rw [os2ip, os2ip, hhead, htail] at hval
      rw [hhead, ih htail (Nat.add_left_cancel hval)]

theorem toOctets_os2ip (X : OctetString) : toOctets X.length (os2ip X) = X :=
  eq_of_os2ip_eq (toOctets_length _ _) (by rw [os2ip_toOctets, Nat.mod_eq_of_lt (os2ip_lt X)])

/-! ### I2OSP (R232) -/

/-- With a valid source the capacity check comes first, then the check of `i2osp`. -/
theorem exec_i2osp_of_some (rd : RegIdx) {rs1 : RegIdx} {s : State} {x : Nat} (hx : s.n rs1 = some x) :
    exec (.i2osp rd rs1) s =
      finish s (needCapacity s s.lparam0.toNat >>= fun _ => i2osp x s.lparam0.toNat >>= fun X => doneOS rd X) := by
  simp only [exec, execI2osp, readN_of_some hx, ok_bind, State.p0]

theorem exec_i2osp_writes (rd : RegIdx) {rs1 : RegIdx} {s : State} {x : Nat} (hx : s.n rs1 = some x)
    (hcap : s.lparam0.toNat ≤ s.cfg.osMaxLen) (hfits : x < 256 ^ s.lparam0.toNat) :
    exec (.i2osp rd rs1) s = .next (wroteOS s rd (toOctets s.lparam0.toNat x)) := by
  rw [exec_i2osp_of_some rd hx, needCapacity_of_le hcap, ok_bind, i2osp_of_lt hfits, ok_bind, finish_doneOS]

/-- Settles O26: CAPACITY when the length exceeds OS_MAXLEN, else ENCODING when x does not fit, else the octets of `toOctets`. -/
theorem i2ospWritesOctets : Obligations.I2ospWritesOctets := by
  intro rd rs1 s x hx
  refine ⟨fun hcap hfits => ?_, fun hlong => ?_, fun hcap hlarge => ?_⟩
  · exact ⟨_, exec_i2osp_writes rd hx hcap hfits, toOctets_length _ _, fun _ hj => toOctets_getD _ _ hj⟩
  · rw [exec_i2osp_of_some rd hx, needCapacity_of_lt hlong, error_bind, finish_error]
  · rw [exec_i2osp_of_some rd hx, needCapacity_of_le hcap, ok_bind, i2osp_eq_error.2 ⟨hlarge, rfl⟩, error_bind, finish_error]

/-! ### OS2IP (R233) -/

/-- A body that ends in `WriteN` with a value in capacity completes with that value written. -/
theorem finish_doneN_of_lt {s : State} (rd : RegIdx) {v : Nat} (h : v < 256 ^ s.cfg.osMaxLen) :
    finish s (doneN s rd v) = .next (wroteN s rd v) := by
  rw [doneN_of_lt h]; rfl

/-- The value of a string in capacity is in capacity, so `WriteN` does not fail. -/
theorem exec_os2ip_writes (rd : RegIdx) {rs1 : RegIdx} {s : State} {X : OctetString} (hX : s.os rs1 = some X)
    (hcap : X.length ≤ s.cfg.osMaxLen) : exec (.os2ip rd rs1) s = .next (wroteN s rd (os2ip X)) := by
  have hfits : os2ip X < 256 ^ s.cfg.osMaxLen := (os2ip_lt X).trans_le (Nat.pow_le_pow_right (by decide) hcap)
  simp only [exec, execOs2ip, readOS_of_some hX, ok_bind, finish_doneN_of_lt rd hfits]

/-- Settles O27: the value written is `os2ip`, which is the sum. -/
theorem os2ipWritesInteger : Obligations.Os2ipWritesInteger := by
  intro rd rs1 s X hX hcap
  rw [exec_os2ip_writes rd hX hcap, os2ip_eq_sum]

/-! ### The round trips (R234) -/

@[simp] theorem n_wroteN_same (s : State) (rd : RegIdx) (v : Nat) : (wroteN s rd v).n rd = some v :=
  n_setN_same (answered s false) rd v

/-- I2OSP on the value of a string, with that string's length latched, writes the string. -/
theorem exec_i2osp_os2ip (rd : RegIdx) {rs1 : RegIdx} {s : State} {X : OctetString} (hval : s.n rs1 = some (os2ip X))
    (hcap : X.length ≤ s.cfg.osMaxLen) (hlen : s.lparam0.toNat = X.length) :
    exec (.i2osp rd rs1) s = .next (wroteOS s rd X) := by
  rw [exec_i2osp_writes rd hval (hlen.trans_le hcap) (hlen ▸ os2ip_lt X), hlen, toOctets_os2ip]

/-- Settles O28: `os2ip` and `toOctets` undo each other below 256^L, and the issue between the two commands keeps N[rn] and latches |X|. -/
theorem conversionRoundTrip : Obligations.ConversionRoundTrip := by
  refine ⟨fun x L hx => ?_, fun x L hx => ?_, fun X => ?_, fun s rn rs rd X w hX hcap hlen => ?_⟩
  · exact ⟨_, i2osp_of_lt hx, by rw [os2ip_toOctets, Nat.mod_eq_of_lt hx]⟩
  · exact i2osp_eq_error.2 ⟨hx, rfl⟩
  · rw [i2osp_of_lt (os2ip_lt X), toOctets_os2ip]
  · exact ⟨_, exec_os2ip_writes rn hX hcap, exec_i2osp_os2ip rd (n_wroteN_same s rn (os2ip X)) hcap hlen⟩

end Sys2Proof.Machine
end

section
/-! ModExp, the exponent-form primitives and the CRT commands (spec/45_rsa.md R240 to R245, R247, R248; O29 to O32). -/

namespace Sys2Proof.Machine

/-! ### ModExp (R240) -/

/-- Settles O29: `modExp b e n` is `b ^ e % n`. -/
theorem modularPowerExact : Obligations.ModularPowerExact := by
  intro b e n hn
  refine ⟨modExp_lt b e hn, ?_, ?_, ?_⟩
  · rw [modExp_eq_pow_mod]; exact Nat.mod_modEq _ _
  · rw [modExp_eq_pow_mod, pow_zero]
  · rw [modExp_eq_pow_mod, Nat.mod_one]

/-! ### The exponent form (R241 to R244) -/

/-- The four commands share one run, and with valid sources only the range check is left. -/
theorem exec_exponentForm {i : Instr} {rd rs1 rs2 rs3 : RegIdx} {s : State} {x n e : Nat}
    (hi : i = .rsaep rd rs1 rs2 rs3 ∨ i = .rsavp1 rd rs1 rs2 rs3 ∨ i = .rsadp rd rs1 rs2 rs3 ∨ i = .rsasp1 rd rs1 rs2 rs3)
    (hx : s.n rs1 = some x) (hn : s.n rs2 = some n) (he : s.n rs3 = some e) :
    exec i s = finish s (need (decide (x < n)) .range >>= fun _ => doneN s rd (x ^ e % n)) := by
  have hrun : exec i s = finish s (expPrimitive s rd rs1 rs2 rs3) := by obtain rfl | rfl | rfl | rfl := hi <;> rfl
  rw [hrun, expPrimitive, readN_of_some hx, ok_bind, readN_of_some hn, ok_bind, readN_of_some he, ok_bind, modExp_eq_pow_mod]

/-- Settles O30: below n the residue is below n too, so it fits a register. -/
theorem exponentPrimitives : Obligations.ExponentPrimitives := by
  intro i rd rs1 rs2 rs3 s x n e hi hx hn he hcap
  rw [exec_exponentForm hi hx hn he]
  refine ⟨fun hlt => ?_, fun hge => ?_⟩
  · have hfits : x ^ e % n < 256 ^ s.cfg.osMaxLen := (Nat.mod_lt _ (Nat.zero_lt_of_lt hlt)).trans hcap
    rw [decide_eq_true hlt, need_true, ok_bind, finish_doneN_of_lt rd hfits]
  · rw [decide_eq_false hge.not_gt, need_false, error_bind, finish_error]

/-! ### The layout of the key block (R245) -/

theorem tripletsOf_length {t : Nat} {vs : List Nat} (h : vs.length = 3 * t) : (tripletsOf vs).length = t :=
  match t, vs, h with
  | 0, [], _ => rfl
  | _ + 1, _ :: _ :: _ :: _, h => congrArg (· + 1) (tripletsOf_length (Nat.add_right_cancel (m := 3) h))

theorem tripletsOf_getD {t : Nat} {vs : List Nat} (h : vs.length = 3 * t) {j : Nat} (hj : j < t) :
    (tripletsOf vs).getD j ⟨0, 0, 0⟩ = ⟨vs.getD (3 * j) 0, vs.getD (3 * j + 1) 0, vs.getD (3 * j + 2) 0⟩ :=
  match t, vs, h, j, hj with
  | _ + 1, _ :: _ :: _ :: _, _, 0, _ => rfl
  | _ + 1, _ :: _ :: _ :: _, h, _ + 1, hj =>
    tripletsOf_getD (Nat.add_right_cancel (m := 3) h) (Nat.lt_of_succ_lt_succ hj)

/-- A block of 5 + 3t integers is five integers and the 3t integers of the triplets. -/
theorem exists_of_length_eq_five_add {vs : List Nat} {t : Nat} (h : vs.length = 5 + 3 * t) :
    ∃ p q dP dQ qInv rest, vs = p :: q :: dP :: dQ :: qInv :: rest ∧ rest.length = 3 * t :=
  match vs, h.trans (Nat.add_comm 5 (3 * t)) with
  | p :: q :: dP :: dQ :: qInv :: rest, h => ⟨p, q, dP, dQ, qInv, rest, rfl, Nat.add_right_cancel (m := 5) h⟩

/-! ### The operands of a CRT command (R134 step 3) -/

/-- Reading a block answers its integers exactly when every register of it is valid. -/
theorem readBlock_eq_ok {s : State} {base count : Nat} {vs : List Nat} :
    readBlock s base count = .ok vs ↔
      vs.length = count ∧ ∀ j, j < count → s.n (regAt (base + j)) = some (vs.getD j 0) := by
  induction count generalizing base vs with
  | zero => simp [readBlock, eq_comm]
  | succ count ih =>
    simp only [readBlock, bind_eq_ok, readN_eq_ok, ih, Except.ok.injEq, Nat.forall_lt_succ_left, Nat.add_assoc, Nat.add_comm 1]
    cases vs with
    | nil => simp
    | cons v vs => simpa using and_left_comm

/-- Reading a block fails exactly when a register of it is invalid. -/
theorem readBlock_eq_error {s : State} {base count : Nat} {c : ErrCode} :
    readBlock s base count = .error c ↔
      (∃ j, j < count ∧ s.n (regAt (base + j)) = none) ∧ c = .invalidOperand := by
  induction count generalizing base with
  | zero => simp [readBlock]
  | succ count ih =>
    have hsplit : (∃ j, j < count + 1 ∧ s.n (regAt (base + j)) = none) ↔
        s.n (regAt base) = none ∨ ∃ j, j < count ∧ s.n (regAt (base + 1 + j)) = none := by
      simp only [Nat.exists_lt_succ_left, Nat.add_assoc, Nat.add_comm 1, Nat.add_zero]
    rw [readBlock, hsplit]
    cases h : s.n (regAt base) with
    | none => simp [readN_of_none h, eq_comm]
    | some v => simp [readN_of_some h, bind_eq_error, ih]

/-- The two commands share one run. -/
theorem exec_crtForm {i : Instr} {rd rs1 b : RegIdx} (hi : i = .rsadpCrt rd rs1 b ∨ i = .rsasp1Crt rd rs1 b) (s : State) :
    exec i s = finish s (crtPrimitive s rd rs1 b) := by
  obtain rfl | rfl := hi <;> rfl

/-- A block that does not fit the file, or has an invalid register, is INVALID_OPERAND whatever N[RS1] is. -/
theorem readCrt_of_invalid {s : State} (rs1 : RegIdx) {b : RegIdx} {t : Nat}
    (h : 32 < b.val + 5 + 3 * t ∨ ∃ j, j < 5 + 3 * t ∧ s.n (regAt (b.val + j)) = none) :
    readCrt s rs1 b t = .error .invalidOperand := by
  by_cases hfits : b.val + 5 + 3 * t ≤ 32
  · have hblock := readBlock_eq_error.2 ⟨h.resolve_left hfits.not_gt, rfl⟩
    rw [readCrt, blockFits, decide_eq_true hfits, need_true, ok_bind, hblock]
    cases hc : s.n rs1 with
    | none => rw [readN_of_none hc]; rfl
    | some c => rw [readN_of_some hc]; rfl
  · rw [readCrt, blockFits, decide_eq_false hfits, need_false, error_bind]

theorem readCrt_of_valid {s : State} {rs1 b : RegIdx} {t c : Nat} {vs : List Nat} (hfits : b.val + 5 + 3 * t ≤ 32)
    (hc : s.n rs1 = some c) (hblock : readBlock s b.val (5 + 3 * t) = .ok vs) : readCrt s rs1 b t = .ok (c, keyOf vs) := by
  rw [readCrt, blockFits, decide_eq_true hfits, need_true, ok_bind, readN_of_some hc, ok_bind, hblock, ok_bind]

/-- Settles O31: `keyOf` reads the table's rows in order, and the failing reads are those of `readCrt`. -/
theorem crtKeyBlock : Obligations.CrtKeyBlock := by
  refine ⟨fun t vs hlen => ?_, fun i rd rs1 b s hi hbad => ?_, fun t => ⟨fun ⟨b, hb⟩ => by omega, fun ht => ⟨0, ?_⟩⟩⟩
  · obtain ⟨p, q, dP, dQ, qInv, rest, rfl, hrest⟩ := exists_of_length_eq_five_add hlen
    refine ⟨rfl, rfl, rfl, rfl, rfl, tripletsOf_length hrest, fun j hj => ?_⟩
    rw [Nat.add_comm 5, Nat.add_comm 6, Nat.add_comm 7]
    exact tripletsOf_getD hrest hj
  · rw [exec_crtForm hi, crtPrimitive, State.p0, readCrt_of_invalid rs1 hbad, error_bind, finish_error]
  · show 0 + 5 + 3 * t ≤ 32
    omega

/-! ### The CRT commands (R247, R248) -/

theorem CrtKey.prod_primes (k : CrtKey) : k.primes.prod = k.modulus := by
  rw [CrtKey.modulus, CrtKey.primes, List.prod_cons, List.prod_cons, Nat.mul_assoc]

/-- With valid operands the range check is left, then the capacity check of `WriteN`. -/
theorem exec_crtForm_of_valid {i : Instr} {rd rs1 b : RegIdx} {s : State} {c : Nat} {vs : List Nat}
    (hi : i = .rsadpCrt rd rs1 b ∨ i = .rsasp1Crt rd rs1 b) (h : readCrt s rs1 b s.p0 = .ok (c, keyOf vs)) :
    exec i s = finish s (need (decide (c < (keyOf vs).primes.prod)) .range >>= fun _ => doneN s rd (crtValue c (keyOf vs))) := by
  rw [exec_crtForm hi, crtPrimitive, h, CrtKey.prod_primes]
  rfl

/-- A body that ends in `WriteN` with a value beyond capacity completes with CAPACITY. -/
theorem finish_doneN_of_le {s : State} (rd : RegIdx) {v : Nat} (h : 256 ^ s.cfg.osMaxLen ≤ v) :
    finish s (doneN s rd v) = .next (errored s .capacity) := by
  rw [doneN_eq_error.2 ⟨h, rfl⟩, finish_error]

/-- Settles O32: the operands are read, and the two checks follow in the order of the body. -/
theorem crtPrimitives : Obligations.CrtPrimitives := by
  intro i rd rs1 b s c vs hi hfits hlen hc hvs
  have hblock : readBlock s b.val (5 + 3 * s.lparam0.toNat) = .ok vs := readBlock_eq_ok.2 ⟨hlen, hlen ▸ hvs⟩
  rw [exec_crtForm_of_valid hi (readCrt_of_valid hfits hc hblock)]
  refine ⟨fun hlt hval => ?_, fun hge => ?_, fun hlt hval => ?_⟩
  · rw [decide_eq_true hlt, need_true, ok_bind, finish_doneN_of_lt rd hval]
  · rw [decide_eq_false hge.not_gt, need_false, error_bind, finish_error]
  · rw [decide_eq_true hlt, need_true, ok_bind, finish_doneN_of_le rd hval]

end Sys2Proof.Machine
end

section
/-! Garner's combination and the CRT equivalence (spec/45_rsa.md R246, R249; O33 to O35). -/

namespace Sys2Proof.Machine

/-! ### One step of the combination (R246) -/

theorem subMulMod_cast (x y k : Nat) {r : Nat} (h : 0 < r) : (subMulMod x y k r : Int) = ((x : Int) - y) * k % r :=
  Int.toNat_of_nonneg (Int.emod_nonneg _ (by omega))

/-- What one step makes of the combination `m` modulo `R`, for the residue `y` modulo the next prime `r` with coefficient `t`. -/
def combine (R m y t r : Nat) : Nat := m + R * subMulMod y m t r

theorem crtTwo_eq_combine (c : Nat) (k : CrtKey) :
    crtTwo c k = combine k.q (modExp c k.dQ k.q) (modExp c k.dP k.p) k.qInv k.p := rfl

theorem garner_cons (c R rPrev m : Nat) (tr : Triplet) (trs : List Triplet) :
    garner c R rPrev m (tr :: trs) =
      garner c (R * rPrev) tr.r (combine (R * rPrev) m (modExp c tr.d tr.r) tr.t tr.r) trs := rfl

theorem combine_lt {R m r : Nat} (y t : Nat) (hm : m < R) (hr : 0 < r) : combine R m y t r < R * r :=
  calc m + R * subMulMod y m t r
      < R + R * subMulMod y m t r := Nat.add_lt_add_right hm _
    _ = R * (subMulMod y m t r + 1) := by ring
    _ ≤ R * r := Nat.mul_le_mul_left _ (subMulMod_lt y m t hr)

theorem combine_modEq_left (R m y t r : Nat) : combine R m y t r ≡ m [MOD R] :=
  Nat.add_modulus_mul_modEq_iff.2 rfl

/-- When the coefficient inverts `R`, the step adds the difference to `y` back. -/
theorem combine_modEq_right {R r t : Nat} (m y : Nat) (hr : 0 < r) (hinv : t * R ≡ 1 [MOD r]) : combine R m y t r ≡ y [MOD r] := by
  rw [← Int.natCast_modEq_iff] at hinv ⊢
  rw [combine]
  push_cast at hinv ⊢
  rw [subMulMod_cast y m t hr]
  calc (m : Int) + R * ((y - m) * t % r)
      ≡ m + R * ((y - m) * t) [ZMOD r] := ((Int.mod_modEq _ _).mul_left _).add_left _
    _ = m + (y - m) * (t * R) := by ring
    _ ≡ m + (y - m) * 1 [ZMOD r] := (hinv.mul_left _).add_left _
    _ = y := by ring

/-- The step meets `x` modulo `R * r` when both residues do (the Chinese remainder theorem). -/
theorem combine_modEq {R r t m y x : Nat} (hr : 0 < r) (hinv : t * R ≡ 1 [MOD r]) (hm : m ≡ x [MOD R]) (hy : y ≡ x [MOD r]) :
    combine R m y t r ≡ x [MOD R * r] := by
  have hcoprime : R.Coprime r := Nat.coprime_of_mul_modEq_one t (by rwa [Nat.mul_comm])
  exact (Nat.modEq_and_modEq_iff_modEq_mul hcoprime).1
    ⟨(combine_modEq_left R m y t r).trans hm, (combine_modEq_right m y hr hinv).trans hy⟩

/-! ### The whole combination (R246) -/

/-- One more triplet at the end is one more step, with the product of all the primes before it. -/
theorem garner_append_singleton (c R rPrev m : Nat) (trs : List Triplet) (tr : Triplet) :
    garner c R rPrev m (trs ++ [tr]) =
      combine (R * rPrev * (trs.map (·.r)).prod) (garner c R rPrev m trs) (modExp c tr.d tr.r) tr.t tr.r := by
  induction trs generalizing R rPrev m with
  | nil => rw [List.map_nil, List.prod_nil, Nat.mul_one]; rfl
  | cons x xs ih => rw [List.cons_append, garner_cons, garner_cons, ih, List.map_cons, List.prod_cons, Nat.mul_assoc (R * rPrev)]

theorem garner_lt (c : Nat) {R rPrev m : Nat} {trs : List Triplet} (hm : m < R * rPrev) (hpos : 0 < (trs.map (·.r)).prod) :
    garner c R rPrev m trs < R * rPrev * (trs.map (·.r)).prod := by
  induction trs generalizing R rPrev m with
  | nil => simpa [garner] using hm
  | cons tr trs ih =>
    rw [List.map_cons, List.prod_cons] at hpos ⊢
    rw [garner_cons, ← Nat.mul_assoc]
    exact ih (combine_lt _ _ hm (Nat.pos_of_mul_pos_right hpos)) (Nat.pos_of_mul_pos_left hpos)

theorem crtTwo_lt (c : Nat) {k : CrtKey} (hp : 0 < k.p) (hq : 0 < k.q) : crtTwo c k < k.p * k.q := by
  rw [crtTwo_eq_combine, Nat.mul_comm]
  exact combine_lt _ _ (modExp_lt c k.dQ hq) hp

theorem crtValue_lt (c : Nat) {k : CrtKey} (hpos : 0 < k.primes.prod) : crtValue c k < k.primes.prod := by
  rw [k.prod_primes, CrtKey.modulus] at hpos ⊢
  have hpq := Nat.pos_of_mul_pos_right hpos
  exact garner_lt c (crtTwo_lt c (Nat.pos_of_mul_pos_right hpq) (Nat.pos_of_mul_pos_left hpq)) (Nat.pos_of_mul_pos_left hpos)

/-- Settles O33: both formulas are `combine`, which keeps the value below the product of the primes it has taken in. -/
theorem garnerCombination : Obligations.GarnerCombination := by
  refine ⟨fun c p q dP dQ qInv hp => ?_, fun c k tr hr => ?_, fun c k hc => crtValue_lt c (Nat.zero_lt_of_lt hc)⟩
  · refine ⟨_, subMulMod_cast _ _ _ hp, ?_⟩
    rw [← modExp_eq_pow_mod, ← modExp_eq_pow_mod]; rfl
  · refine ⟨_, subMulMod_cast _ _ _ hr, ?_⟩
    rw [k.prod_primes, CrtKey.modulus, ← modExp_eq_pow_mod]
    exact garner_append_singleton ..

/-! ### The CRT form and the exponent form (R249) -/

/-- The loop meets `x` modulo the product of the primes when its start and every triplet's residue do. -/
theorem garner_modEq {c d R rPrev m x : Nat} {trs : List Triplet} (hm : m ≡ x [MOD R * rPrev])
    (htrs : tripletsConsistent d (R * rPrev) trs)
    (hres : ∀ tr ∈ trs, 0 < tr.r ∧ c ^ (d % (tr.r - 1)) ≡ x [MOD tr.r]) :
    garner c R rPrev m trs ≡ x [MOD R * rPrev * (trs.map (·.r)).prod] := by
  induction trs generalizing R rPrev m with
  | nil => simpa [garner] using hm
  | cons tr trs ih =>
    obtain ⟨hexp, hinv, hrest⟩ := htrs
    obtain ⟨⟨hr, hy⟩, hres⟩ := List.forall_mem_cons.1 hres
    rw [garner_cons, List.map_cons, List.prod_cons, ← Nat.mul_assoc, hexp, modExp_eq_pow_mod]
    exact ih (combine_modEq hr hinv hm ((Nat.mod_modEq _ _).trans hy)) hrest hres

/-- An exponent that is a unit modulo r − 1 may be reduced modulo r − 1, for an odd prime r. For r = 2 the reduced exponent is 0, and
0^0 = 1. -/
theorem pow_mod_pred_modEq {r d e : Nat} (hr : r.Prime) (hodd : r ≠ 2) (hde : d * e ≡ 1 [MOD r - 1]) (c : Nat) :
    c ^ (d % (r - 1)) ≡ c ^ d [MOD r] := by
  by_cases hc : r ∣ c
  · have hne : d % (r - 1) ≠ 0 := fun h0 => by
      have hdvd : r - 1 ∣ 1 := (hde.dvd_iff dvd_rfl).1 ((Nat.dvd_of_mod_eq_zero h0).mul_right e)
      have := Nat.dvd_one.1 hdvd
      omega
    have hd : d ≠ 0 := fun h => hne (by rw [h, Nat.zero_mod])
    exact (Nat.modEq_zero_iff_dvd.2 (dvd_pow hc hne)).trans (Nat.modEq_zero_iff_dvd.2 (dvd_pow hc hd)).symm
  · have hfermat : c ^ (r - 1) ≡ 1 [MOD r] := by
      rw [← Nat.totient_prime hr]
      exact Nat.ModEq.pow_totient ((hr.coprime_iff_not_dvd.2 hc).symm)
    calc c ^ (d % (r - 1))
        = 1 ^ (d / (r - 1)) * c ^ (d % (r - 1)) := by rw [one_pow, one_mul]
      _ ≡ (c ^ (r - 1)) ^ (d / (r - 1)) * c ^ (d % (r - 1)) [MOD r] := (hfermat.symm.pow _).mul_right _
      _ = c ^ d := by rw [← pow_mul, ← pow_add, Nat.div_add_mod]

theorem dvd_foldr_lcm {a : Nat} {l : List Nat} (h : a ∈ l) : a ∣ l.foldr Nat.lcm 1 := by
  induction h with
  | head l => exact Nat.dvd_lcm_left ..
  | tail b _ ih => exact ih.trans (Nat.dvd_lcm_right ..)

section
variable {k : CrtKey} {n e d : Nat} (h : k.Consistent n e d) (hodd : ∀ r ∈ k.primes, r ≠ 2) (c : Nat)
include h hodd

/-- Each prime's residue, with the reduced exponent, is that of c^d. -/
theorem CrtKey.Consistent.pow_modEq {r : Nat} (hr : r ∈ k.primes) : c ^ (d % (r - 1)) ≡ c ^ d [MOD r] := by
  obtain ⟨hprime, -, -, -, -, -, -, hde⟩ := h
  have hdvd := dvd_foldr_lcm (List.mem_map_of_mem (f := (· - 1)) hr)
  exact pow_mod_pred_modEq (hprime r hr) (hodd r hr) (hde.of_dvd hdvd) c

theorem CrtKey.Consistent.crtTwo_modEq : crtTwo c k ≡ c ^ d [MOD k.p * k.q] := by
  have hp : k.p ∈ k.primes := List.mem_cons_self
  have hq : k.q ∈ k.primes := List.mem_cons_of_mem _ List.mem_cons_self
  have hresP := h.pow_modEq hodd c hp
  have hresQ := h.pow_modEq hodd c hq
  obtain ⟨hprime, -, -, hdP, hdQ, hinv, -, -⟩ := h
  rw [crtTwo_eq_combine, hdP, hdQ, modExp_eq_pow_mod, modExp_eq_pow_mod, Nat.mul_comm k.p]
  exact combine_modEq (hprime _ hp).pos hinv ((Nat.mod_modEq _ _).trans hresQ) ((Nat.mod_modEq _ _).trans hresP)

theorem CrtKey.Consistent.crtValue_modEq : crtValue c k ≡ c ^ d [MOD k.primes.prod] := by
  have htwo := h.crtTwo_modEq hodd c
  have hpow {r : Nat} (hr : r ∈ k.primes) := h.pow_modEq hodd c hr
  obtain ⟨hprime, -, -, -, -, -, htrs, -⟩ := h
  rw [k.prod_primes, CrtKey.modulus]
  refine garner_modEq htwo htrs fun tr htr => ?_
  have hr : tr.r ∈ k.primes := List.mem_cons_of_mem _ (List.mem_cons_of_mem _ (List.mem_map_of_mem htr))
  exact ⟨(hprime _ hr).pos, hpow hr⟩

end

/-- Settles O34: both values lie below n, and they agree modulo n. -/
theorem crtMatchesExponentForm : Obligations.CrtMatchesExponentForm := by
  intro k n e d c h hodd hc
  have hmod := h.crtValue_modEq hodd c
  obtain ⟨-, -, rfl, -⟩ := h
  rw [← hmod, Nat.mod_eq_of_lt (crtValue_lt c (Nat.zero_lt_of_lt hc))]

/-- Settles O35: for p = 2, q = 3, d = e = 1 and c = 2 the CRT form gives 5, the exponent form 2. -/
theorem crtEquivalenceNeedsOddPrimes : Obligations.CrtEquivalenceNeedsOddPrimes := by
  refine ⟨⟨2, 3, 0, 1, 1, []⟩, 6, 1, 1, 2, ⟨?_, by decide, by decide, by decide, by decide, by decide, trivial, rfl⟩,
    by decide, by decide, by decide⟩
  simp only [CrtKey.primes, List.map_nil, List.mem_cons, List.not_mem_nil, or_false, forall_eq_or_imp, forall_eq]
  exact ⟨Nat.prime_two, Nat.prime_three⟩

end Sys2Proof.Machine
end

section
/-! The encryption encoders and decoders and their commands (spec/46_eme.md R260 to R269; O36 to O42). -/

namespace Sys2Proof.Machine

/-! ### Searches and pieces of a string (R10) -/

/-- A search answers j exactly when j elements fail the test and the one after them meets it. -/
theorem findIdx?_eq_some_iff_append {α : Type} {p : α → Bool} {l : List α} {j : Nat} :
    l.findIdx? p = some j ↔ ∃ xs x ys, l = xs ++ x :: ys ∧ xs.length = j ∧ (∀ b ∈ xs, p b = false) ∧ p x = true := by
  constructor
  · intro h
    obtain ⟨hj, hx, hbefore⟩ := List.findIdx?_eq_some_iff_getElem.1 h
    refine ⟨l.take j, l[j], l.drop (j + 1), ?_, List.length_take_of_le hj.le, fun b hb => ?_, hx⟩
    · rw [← List.drop_eq_getElem_cons hj, List.take_append_drop]
    · obtain ⟨i, hi, rfl⟩ := List.mem_take_iff_getElem.1 hb
      exact Bool.eq_false_iff.2 (hbefore i (Nat.lt_of_lt_of_le hi (Nat.min_le_left _ _)))
  · rintro ⟨xs, x, ys, rfl, rfl, hxs, hx⟩
    rw [List.findIdx?_append, List.findIdx?_eq_none_iff.2 hxs, List.findIdx?_cons, if_pos hx, Option.none_or, Option.map_some,
      Nat.zero_add]

theorem drop_length_succ_append {α : Type} (xs : List α) (x : α) (ys : List α) : (xs ++ x :: ys).drop (xs.length + 1) = ys :=
  List.drop_length_add_append 1

theorem eq_append_iff_take_drop {α : Type} {l xs ys : List α} {n : Nat} (hn : xs.length = n) :
    l = xs ++ ys ↔ l.take n = xs ∧ l.drop n = ys := by
  constructor
  · rintro rfl
    exact ⟨List.take_left' hn, List.drop_left' hn⟩
  · rintro ⟨htake, hdrop⟩
    rw [← htake, ← hdrop, List.take_append_drop]

theorem slice_zero (s : OctetString) (j : Nat) : slice s 0 j = s.take j := rfl

/-- A piece that reaches the end of the string is the rest of it. -/
theorem slice_eq_drop {s : OctetString} (i : Nat) {j : Nat} (h : s.length ≤ j) : slice s i j = s.drop i :=
  List.take_of_length_le (by rw [List.length_drop]; omega)

theorem slice_middle {xs ys zs : OctetString} {i j : Nat} (hi : xs.length = i) (hj : i + ys.length = j) :
    slice (xs ++ ys ++ zs) i j = ys := by
  subst hi hj
  rw [slice, List.append_assoc, List.drop_left, Nat.add_sub_cancel_left, List.take_left]

theorem getD_drop {α : Type} (l : List α) (n j : Nat) (d : α) : (l.drop n).getD j d = l.getD (n + j) d := by
  rw [List.getD_eq_getElem?_getD, List.getElem?_drop, List.getD_eq_getElem?_getD]

/-! ### Checks that answer -/

section
variable {ε α : Type} {c : Prop} [Decidable c] {e : ε} {v : α}

theorem ite_error_eq_ok {x : Except ε α} : (if c then .error e else x) = .ok v ↔ ¬c ∧ x = .ok v := by
  split <;> simp [*]

theorem ite_ok_eq_ok {w : α} : (if c then .ok w else .error e : Except ε α) = .ok v ↔ c ∧ v = w := by
  split <;> simp [*, eq_comm]

end

/-! ### OAEP decoding (R262) -/

/-- What follows lHash in a data block: its first nonzero octet is 0x01 with M behind it, exactly when it is zeros, 0x01 and M. -/
theorem zeros_separator_iff {rest m : OctetString} :
    (∃ j, rest.findIdx? (· != 0) = some j ∧ rest.getD j 0 = 1 ∧ m = rest.drop (j + 1)) ↔
      ∃ z, rest = List.replicate z 0 ++ [0x01] ++ m := by
  constructor
  · rintro ⟨j, hj, hone, rfl⟩
    obtain ⟨xs, x, ys, rfl, rfl, hxs, -⟩ := findIdx?_eq_some_iff_append.1 hj
    have hzeros : xs = List.replicate xs.length 0 := List.eq_replicate_of_mem fun b hb => by simpa using hxs b hb
    have hx : x = 1 := by simpa using hone
    exact ⟨xs.length, by rw [drop_length_succ_append, ← hzeros, hx, List.append_assoc, List.singleton_append]⟩
  · rintro ⟨z, rfl⟩
    rw [List.append_assoc, List.singleton_append]
    have hlen : (List.replicate z (0 : Byte)).length = z := List.length_replicate
    refine ⟨z, findIdx?_eq_some_iff_append.2 ⟨_, 1, m, rfl, hlen, fun b hb => ?_, rfl⟩, ?_, ?_⟩
    · rw [List.eq_of_mem_replicate hb]; rfl
    · rw [List.getD_append_right _ _ _ _ hlen.le, hlen, Nat.sub_self]; rfl
    · exact (hlen ▸ drop_length_succ_append _ 1 m).symm

/-- The checks of R262, over the recovered data block. -/
theorem oaepDecode_eq_ok {a : HashAlg} {em label m : OctetString} {k : Nat} :
    oaepDecode a em label k = .ok m ↔ em.length = k ∧ 2 * hLen a + 2 ≤ k ∧ em.getD 0 0 = 0 ∧
      slice (oaepRecoverDB a em k) 0 (hLen a) = hashOf a label ∧
      ∃ j, ((oaepRecoverDB a em k).drop (hLen a)).findIdx? (· != 0) = some j ∧
        (oaepRecoverDB a em k).getD (hLen a + j) 0 = 1 ∧
        m = slice (oaepRecoverDB a em k) (hLen a + j + 1) (k - hLen a - 1) := by
  unfold oaepDecode
  dsimp only
  rw [ite_error_eq_ok, not_or, not_not, not_lt, and_assoc]
  cases ((oaepRecoverDB a em k).drop (hLen a)).findIdx? (· != 0) with
  | none => simp
  | some j => simp [ite_ok_eq_ok, and_assoc]

theorem head?_eq_some_iff_getD {em : OctetString} (h : em.length ≠ 0) (b : Byte) : em.head? = some b ↔ em.getD 0 0 = b := by
  cases em with
  | nil => exact absurd rfl h
  | cons x xs => simp

/-- Settles O37: the checks of the decoder split the data block at lHash and at its first nonzero octet behind it. -/
theorem oaepDecoderAcceptsExactly : Obligations.OaepDecoderAcceptsExactly := by
  intro a em label m k
  rw [oaepDecode_eq_ok]
  refine and_congr_right fun hlen => and_congr_right fun hmin => and_congr (head?_eq_some_iff_getD (by omega) 0).symm ?_
  have hdb := oaepRecoverDB_length (a := a) hlen
  generalize oaepRecoverDB a em k = db at hdb ⊢
  have hsplit (z : Nat) : db = hashOf a label ++ List.replicate z 0 ++ [0x01] ++ m ↔
      db.take (hLen a) = hashOf a label ∧ db.drop (hLen a) = List.replicate z 0 ++ [0x01] ++ m := by
    rw [List.append_assoc, List.append_assoc, eq_append_iff_take_drop (hashOf_length a label), List.append_assoc]
  simp only [hsplit, exists_and_left, ← zeros_separator_iff, slice_zero, slice_eq_drop _ hdb.le, List.drop_drop, getD_drop,
    Nat.add_assoc]

/-! ### PKCS#1-v1.5 decoding (R267) -/

/-- What follows 00 02: its first zero octet has at least eight octets before it and M behind it, exactly when it is PS, 00 and M. -/
theorem ps_separator_iff {rest m : OctetString} :
    (∃ j, rest.findIdx? (· == 0) = some j ∧ 8 ≤ j ∧ m = rest.drop (j + 1)) ↔
      ∃ ps : OctetString, 8 ≤ ps.length ∧ (∀ b ∈ ps, b ≠ 0) ∧ rest = ps ++ 0 :: m := by
  constructor
  · rintro ⟨j, hj, hmin, rfl⟩
    obtain ⟨ps, x, m, rfl, rfl, hps, hx⟩ := findIdx?_eq_some_iff_append.1 hj
    refine ⟨ps, hmin, fun b hb => beq_eq_false_iff_ne.1 (hps b hb), ?_⟩
    rw [drop_length_succ_append, eq_of_beq hx]
  · rintro ⟨ps, hmin, hps, rfl⟩
    exact ⟨ps.length, findIdx?_eq_some_iff_append.2 ⟨ps, 0, m, rfl, rfl, fun b hb => beq_eq_false_iff_ne.2 (hps b hb), rfl⟩, hmin,
      (drop_length_succ_append ps 0 m).symm⟩

/-- The checks of R267. -/
theorem eme15Decode_eq_ok {em m : OctetString} {k : Nat} :
    eme15Decode em k = .ok m ↔ em.length = k ∧ 11 ≤ k ∧ em.getD 0 0 = 0 ∧ em.getD 1 0 = 2 ∧
      ∃ j, (em.drop 2).findIdx? (· == 0) = some j ∧ 8 ≤ j ∧ m = slice em (2 + j + 1) k := by
  unfold eme15Decode
  rw [ite_error_eq_ok, ite_error_eq_ok, not_or, not_or, not_not, not_not, not_not, not_lt, and_assoc, and_assoc]
  cases (em.drop 2).findIdx? (· == 0) with
  | none => simp
  | some j => simp [ite_error_eq_ok, eq_comm (a := m)]

/-- Settles O39: behind its two leading octets EM is split at the first zero octet. -/
theorem eme15DecoderAcceptsExactly : Obligations.Eme15DecoderAcceptsExactly := by
  intro em m k
  rw [eme15Decode_eq_ok]
  refine and_congr_right fun hlen => and_congr_right fun hmin => ?_
  rw [← hlen] at hmin ⊢
  match em, hmin with
  | x :: y :: rest, _ =>
    have hform (ps : OctetString) : x :: y :: rest = [0x00, 0x02] ++ ps ++ [0x00] ++ m ↔ x = 0 ∧ y = 2 ∧ rest = ps ++ 0 :: m := by
      simp
    have hpiece (j : Nat) : slice (x :: y :: rest) (2 + j + 1) (x :: y :: rest).length = rest.drop (j + 1) := by
      rw [slice_eq_drop _ le_rfl, Nat.add_assoc, ← List.drop_drop]
      rfl
    simp only [hform, hpiece, List.getD_cons_zero, List.getD_cons_succ, List.drop_succ_cons, List.drop_zero, ps_separator_iff]
    exact ⟨fun ⟨hx, hy, ps, hmin, hps, hrest⟩ => ⟨ps, hmin, hps, hx, hy, hrest⟩,
      fun ⟨ps, hmin, hps, hx, hy, hrest⟩ => ⟨hx, hy, ps, hmin, hps, hrest⟩⟩

/-! ### The round trip (R269) -/

/-- The unmasking of R262, on a string given in its three parts. -/
theorem oaepRecoverDB_of_parts {a : HashAlg} {maskedSeed maskedDB : OctetString} {k : Nat} (hseed : maskedSeed.length = hLen a)
    (hdb : maskedDB.length = k - hLen a - 1) (hk : hLen a + 1 ≤ k) :
    oaepRecoverDB a ([0x00] ++ maskedSeed ++ maskedDB) k =
      xorOctets maskedDB (mgf1 a (xorOctets maskedSeed (mgf1 a maskedDB (hLen a))) (k - hLen a - 1)) := by
  have hlen : ([0x00] ++ maskedSeed).length = 1 + hLen a := by rw [List.length_append, hseed]; rfl
  have hem : ([0x00] ++ maskedSeed ++ maskedDB).length ≤ k := by rw [List.length_append, hlen, hdb]; omega
  have hmiddle : slice ([0x00] ++ maskedSeed ++ maskedDB) 1 (1 + hLen a) = maskedSeed := slice_middle rfl (hseed ▸ rfl)
  rw [oaepRecoverDB, hmiddle, slice_eq_drop _ hem, List.drop_left' hlen]

/-- Unmasking takes off the masks of R260: the masked block gives the seed's mask back, and the seed gives the block's. -/
theorem oaepRecoverDB_encode {a : HashAlg} {m label seed : OctetString} {k : Nat} (hfits : m.length + 2 * hLen a + 2 ≤ k)
    (hseed : seed.length = hLen a) :
    oaepRecoverDB a (oaepEncodeWith a m label k seed) k =
      hashOf a label ++ zeros (k - m.length - 2 * hLen a - 2) ++ [0x01] ++ m := by
  have hdb : (hashOf a label ++ zeros (k - m.length - 2 * hLen a - 2) ++ [0x01] ++ m).length = k - hLen a - 1 := by
    simp only [List.length_append, hashOf_length, zeros_length, List.length_singleton]
    omega
  simp only [oaepEncodeWith]
  rw [oaepRecoverDB_of_parts (by simp [hseed]) (by simp only [xorOctets_length, mgf1_length, hdb, min_self]) (by omega),
    xorOctets_cancel seed _ (by simp [hseed]), xorOctets_cancel _ _ (by simp only [mgf1_length, hdb, le_refl])]

/-- Settles O41: what an encoder builds has the form its decoder accepts. -/
theorem encryptionRoundTrip : Obligations.EncryptionRoundTrip := by
  refine ⟨fun a m label seed k hfits hseed => ?_, fun m ps k hfits hlen hps => ?_⟩
  · exact (oaepDecoderAcceptsExactly _ _ _ _ _).2
      ⟨oaepEncodeWith_length hfits hseed, by omega, rfl, _, oaepRecoverDB_encode hfits hseed⟩
  · exact (eme15DecoderAcceptsExactly _ _ _).2 ⟨by rw [eme15EncodeWith_length]; omega, by omega, ps, by omega, hps, rfl⟩

/-! ### The decode commands (R263, R264, R268) -/

/-- With ALG in 0..6 and valid sources only the decoder's own checks are left. -/
theorem exec_oaepDec_of_some (a : HashAlg) (rd : RegIdx) {rs1 rs2 : RegIdx} {s : State} {em label : OctetString}
    (hem : s.os rs1 = some em) (hlabel : s.os rs2 = some label) :
    exec (.oaepDec (some a) rd rs1 rs2) s = finish s (oaepDecode a em label s.lparam0.toNat >>= fun m => doneOS rd m) := by
  simp only [exec, execOaepDec, needAlg_some, ok_bind, readOS_of_some hem, readOS_of_some hlabel, State.p0]

theorem exec_eme15Dec_of_some (rd : RegIdx) {rs1 : RegIdx} {s : State} {em : OctetString} (hem : s.os rs1 = some em) :
    exec (.eme15Dec rd rs1) s = finish s (eme15Decode em s.lparam0.toNat >>= fun m => doneOS rd m) := by
  simp only [exec, execEme15Dec, ok_bind, readOS_of_some hem, State.p0]

/-- A computation that fails only with `c`, and answers nothing, fails with `c`. -/
theorem eq_error_of_forall_ne_ok {ε α : Type} {x : Except ε α} {c : ε} (hcode : ∀ d, x = .error d → d = c) (h : ∀ v, x ≠ .ok v) :
    x = .error c := by
  cases x with
  | ok v => exact absurd rfl (h v)
  | error d => rw [hcode d rfl]

/-- Settles O42: either decoder fails with DECRYPTION alone, and the completion adds nothing to the code. -/
theorem uniformDecryptionError : Obligations.UniformDecryptionError := by
  refine ⟨rfl, fun a rd rs1 rs2 s em label hem hlabel hfail => ?_, fun rd rs1 s em hem hfail => ?_⟩
  · rw [exec_oaepDec_of_some a rd hem hlabel, eq_error_of_forall_ne_ok (fun _ => oaepDecode_error) hfail, error_bind, finish_error]
  · rw [exec_eme15Dec_of_some rd hem, eq_error_of_forall_ne_ok (fun _ => eme15Decode_error) hfail, error_bind, finish_error]

/-- Settles O40: the decoder's answer is written. -/
theorem decodersWriteMessage : Obligations.DecodersWriteMessage := by
  refine ⟨fun a rd rs1 rs2 s em label m hem hlabel hm => ?_, fun rd rs1 s em m hem hm => ?_⟩
  · rw [exec_oaepDec_of_some a rd hem hlabel, hm, ok_bind, finish_doneOS]
  · rw [exec_eme15Dec_of_some rd hem, hm, ok_bind, finish_doneOS]

/-! ### The checks and the random source of an encoder (R139, R407, R414) -/

section
variable {s : State} {k least : Nat} (run : RunResult)

theorem encoderChecks_pass (hcap : k ≤ s.cfg.osMaxLen) (hfits : least ≤ k) :
    (needCapacity s k >>= fun _ => need (decide (least ≤ k)) .encoding >>= fun _ => run) = run := by
  rw [needCapacity_of_le hcap, ok_bind, decide_eq_true hfits, need_true, ok_bind]

/-- A failing check completes with its error, CAPACITY before ENCODING, whatever the body does after the checks. -/
theorem finish_encoderChecks_fails :
    let checked := needCapacity s k >>= fun _ => need (decide (least ≤ k)) .encoding >>= fun _ => run
    (s.cfg.osMaxLen < k → finish s checked = .next (errored s .capacity)) ∧
    (k ≤ s.cfg.osMaxLen → k < least → finish s checked = .next (errored s .encoding)) := by
  refine ⟨fun hlong => ?_, fun hcap hshort => ?_⟩
  · rw [needCapacity_of_lt hlong, error_bind, finish_error]
  · rw [needCapacity_of_le hcap, ok_bind, decide_eq_false hshort.not_ge, need_false, error_bind, finish_error]

end

section
variable {s : State} {rs3 : RegIdx} {src : OctetString} {n : Nat}

theorem readSource_internal (h : s.lrngsrc = false) : readSource s rs3 = .ok none := readSource_eq_ok.2 (.inr ⟨h, rfl⟩)

theorem readSource_host (h : s.lrngsrc = true) (hsrc : s.os rs3 = some src) : readSource s rs3 = .ok (some src) :=
  readSource_eq_ok.2 (.inl ⟨h, rfl, hsrc⟩)

/-- The source is readable with the internal source, or with a valid register whatever LRNGSRC is. -/
theorem exists_readSource (h : s.lrngsrc = false ∨ (s.os rs3).isSome) : ∃ src, readSource s rs3 = .ok src := by
  cases hrng : s.lrngsrc with
  | false => exact ⟨_, readSource_internal hrng⟩
  | true =>
    obtain ⟨src, hsrc⟩ := Option.isSome_iff_exists.1 (h.resolve_left (by simp [hrng]))
    exact ⟨_, readSource_host hrng hsrc⟩

theorem randOctets_of_le (h : n ≤ src.length) : randOctets s (some src) n = .ok (src.take n) := if_neg h.not_gt

theorem randOctets_of_lt (h : src.length < n) : randOctets s (some src) n = .error .randomSource := if_pos h

theorem randNonzeroOctets_of_le (h : n ≤ src.length) (hnz : (0 : Byte) ∉ src.take n) :
    randNonzeroOctets s (some src) n = .ok (src.take n) :=
  if_neg (by simpa [h] using hnz)

theorem randNonzeroOctets_fails (h : src.length < n ∨ (0 : Byte) ∈ src.take n) :
    randNonzeroOctets s (some src) n = .error .randomSource :=
  if_pos (by simpa using h)

end

/-- A body that ends in `WriteOS` after drawing n octets completes with its string written and the draws counted. -/
theorem finish_doneOS_drew (s : State) (rd : RegIdx) (v : OctetString) (n : Nat) :
    finish s (doneOS rd v n) = .next (drew (wroteOS s rd v) n) := rfl

/-! ### The encode commands (R260, R261, R265, R266) -/

/-- With ALG in 0..6 and valid sources the two length checks are left, then the request for the seed. -/
theorem exec_oaepEnc_of_some (a : HashAlg) (rd : RegIdx) {rs1 rs2 rs3 : RegIdx} {s : State} {m label : OctetString}
    {src : Option OctetString} (hm : s.os rs1 = some m) (hlabel : s.os rs2 = some label) (hsrc : readSource s rs3 = .ok src) :
    exec (.oaepEnc (some a) rd rs1 rs2 rs3) s =
      finish s (needCapacity s s.lparam0.toNat >>= fun _ =>
        need (decide (m.length + 2 * hLen a + 2 ≤ s.lparam0.toNat)) .encoding >>= fun _ =>
        randOctets s src (hLen a) >>= fun seed =>
        doneOS rd (oaepEncodeWith a m label s.lparam0.toNat seed) (drawnFor src (hLen a))) := by
  simp only [exec, execOaepEnc, needAlg_some, ok_bind, readOS_of_some hm, readOS_of_some hlabel, hsrc, State.p0, oaepFits]
  rfl

/-- Settles O36: the checks pass or fail in the order of the body, and the seed is drawn or cut from RS3. -/
theorem oaepEncoderWrites : Obligations.OaepEncoderWrites := by
  intro a rd rs1 rs2 rs3 s m label hm hlabel
  refine ⟨fun hrng hcap hfits => ?_, fun src hrng hsrc hcap hfits => ?_, fun hsrc => ?_⟩
  · rw [exec_oaepEnc_of_some a rd hm hlabel (readSource_internal hrng), encoderChecks_pass _ hcap hfits, randOctets, ok_bind]
    exact finish_doneOS_drew s rd _ _
  · rw [exec_oaepEnc_of_some a rd hm hlabel (readSource_host hrng hsrc), encoderChecks_pass _ hcap hfits]
    refine ⟨fun hlong => ?_, fun hshort => ?_⟩
    · rw [randOctets_of_le hlong, ok_bind]
      exact finish_doneOS s rd _
    · rw [randOctets_of_lt hshort, error_bind, finish_error]
  · obtain ⟨src, hsrc⟩ := exists_readSource hsrc
    rw [exec_oaepEnc_of_some a rd hm hlabel hsrc]
    exact finish_encoderChecks_fails _

/-- With valid sources the two length checks are left, then the request for PS. -/
theorem exec_eme15Enc_of_some (rd : RegIdx) {rs1 rs3 : RegIdx} {s : State} {m : OctetString}
    {src : Option OctetString} (hm : s.os rs1 = some m) (hsrc : readSource s rs3 = .ok src) :
    exec (.eme15Enc rd rs1 rs3) s =
      finish s (needCapacity s s.lparam0.toNat >>= fun _ => need (decide (m.length + 11 ≤ s.lparam0.toNat)) .encoding >>= fun _ =>
        randNonzeroOctets s src (s.lparam0.toNat - m.length - 3) >>= fun ps =>
        doneOS rd (eme15EncodeWith m ps) (drawnFor src (s.lparam0.toNat - m.length - 3))) := by
  simp only [exec, execEme15Enc, ok_bind, readOS_of_some hm, hsrc, State.p0, eme15PsLen]
  rfl

/-- Settles O38: the checks pass or fail in the order of the body, and PS is drawn or cut from RS3. -/
theorem eme15EncoderWrites : Obligations.Eme15EncoderWrites := by
  intro rd rs1 rs3 s m hm
  refine ⟨fun hrng hcap hfits => ⟨?_, drawNonzero_length _ _, fun _ => drawNonzero_ne_zero⟩,
    fun src hrng hsrc hcap hfits => ?_, fun hsrc => ?_⟩
  · rw [exec_eme15Enc_of_some rd hm (readSource_internal hrng), encoderChecks_pass _ hcap hfits, randNonzeroOctets, ok_bind]
    exact finish_doneOS_drew s rd _ _
  · rw [exec_eme15Enc_of_some rd hm (readSource_host hrng hsrc), encoderChecks_pass _ hcap hfits]
    refine ⟨fun hlong hnz => ?_, fun hbad => ?_⟩
    · rw [randNonzeroOctets_of_le hlong fun h => hnz 0 h rfl, ok_bind]
      exact finish_doneOS s rd _
    · rw [randNonzeroOctets_fails hbad, error_bind, finish_error]
  · obtain ⟨src, hsrc⟩ := exists_readSource hsrc
    rw [exec_eme15Enc_of_some rd hm hsrc]
    exact finish_encoderChecks_fails _

end Sys2Proof.Machine
end

section
/-! The signature encoders and verifiers and their commands (spec/47_emsa.md R280 to R288; O43 to O47). -/

namespace Sys2Proof.Machine

/-! ### The compare unit inside a verifier (R300) -/

/-- An octet extended to nine bits is none of the sentinels. -/
theorem setWidth_octet_ne (x : Byte) {v : BitVec 9} (hv : 256 ≤ v.toNat) : x.setWidth 9 ≠ v := by
  rintro rfl
  rw [BitVec.toNat_setWidth] at hv
  omega

theorem setWidth_octet_inj {x y : Byte} : x.setWidth 9 = y.setWidth 9 ↔ x = y := by
  rw [← BitVec.toNat_inj, ← BitVec.toNat_inj, BitVec.toNat_setWidth_of_le (by decide), BitVec.toNat_setWidth_of_le (by decide)]

/-- The two sentinels differ from each other and from every octet, so two positions agree only where both strings have one octet. -/
theorem compareAt_eq_iff {a b : OctetString} {i : Nat} :
    compareAt a i 0x100 = compareAt b i 0x101 ↔ ∃ x, a[i]? = some x ∧ b[i]? = some x := by
  unfold compareAt
  cases a[i]? with
  | none =>
    cases b[i]? with
    | none => simp
    | some y => simpa using (setWidth_octet_ne y (by decide)).symm
  | some x =>
    cases b[i]? with
    | none => simpa using setWidth_octet_ne x (by decide)
    | some y => simp [setWidth_octet_inj, eq_comm]

/-- The accumulator is 0 exactly when no position so far differed. -/
theorem compareLoop_eq_zero_iff {a b : OctetString} {n : Nat} :
    compareLoop a b n = 0 ↔ ∀ i < n, compareAt a i 0x100 = compareAt b i 0x101 := by
  induction n with
  | zero => simp [compareLoop]
  | succ n ih =>
    rw [Nat.forall_lt_succ_right, ← ih]
    exact BitVec.or_eq_zero_iff.trans (and_congr_right' BitVec.xor_eq_zero_iff)

/-- `ctEquals` decides equality. -/
theorem ctEquals_fst (a b : OctetString) : (ctEquals a b).1 = decide (a = b) := by
  rw [Bool.eq_iff_iff, decide_eq_true_iff, ctEquals]
  simp only [Bool.and_eq_true, beq_iff_eq, compareLoop_eq_zero_iff, compareAt_eq_iff]
  constructor
  · rintro ⟨hoctets, -⟩
    refine List.ext_getElem? fun i => ?_
    by_cases hi : i < max a.length b.length
    · obtain ⟨x, hax, hbx⟩ := hoctets i hi
      rw [hax, hbx]
    · rw [List.getElem?_eq_none (by omega), List.getElem?_eq_none (by omega)]
  · rintro rfl
    refine ⟨fun i hi => ?_, rfl⟩
    rw [max_self] at hi
    exact ⟨a[i], List.getElem?_eq_getElem hi, List.getElem?_eq_getElem hi⟩

/-! ### The leftmost bits of the data block (R280, R282) -/

theorem pssClearTop_eq_cons (emBits : Nat) {s : OctetString} (h : 0 < s.length) :
    pssClearTop emBits s = (s.getD 0 0 &&& pssTopMask emBits) :: s.tail := by
  cases s with
  | nil => simp at h
  | cons b bs => rfl

/-- ⌈emBits/8⌉ octets leave at most seven bits over, so the lowest bit of the first octet is never cleared. -/
theorem one_and_pssTopMask (emBits : Nat) : (1 : Byte) &&& pssTopMask emBits = 1 := by
  have hz : 8 * pssEmLen emBits - emBits < 8 := by
    rw [pssEmLen, ceilDiv]
    omega
  unfold pssTopMask
  generalize 8 * pssEmLen emBits - emBits = z at hz
  decide +revert

theorem and_not_eq_zero_iff {w : Nat} (b k : BitVec w) : b &&& ~~~k = 0#w ↔ b &&& k = b := by
  simp only [BitVec.eq_of_getElem_eq_iff, BitVec.getElem_and, BitVec.getElem_not, BitVec.getElem_zero]
  refine forall_congr' fun i => forall_congr' fun hi => ?_
  cases b[i] <;> simp

theorem and_xor_and {w : Nat} (b c k : BitVec w) : (b &&& k ^^^ c) &&& k = (b ^^^ c) &&& k := by
  ext i hi
  simp only [BitVec.getElem_and, BitVec.getElem_xor]
  cases k[i] <;> simp

/-- The check of R282 on the leftmost bits: clearing them changes nothing. -/
theorem topBits_eq_zero_iff (emBits : Nat) (s : OctetString) :
    s.getD 0 0 &&& ~~~pssTopMask emBits = 0 ↔ pssClearTop emBits s = s := by
  cases s with
  | nil => simp [pssClearTop]
  | cons b bs => simpa [pssClearTop] using and_not_eq_zero_iff b (pssTopMask emBits)

theorem pssClearTop_pssClearTop (emBits : Nat) (s : OctetString) :
    pssClearTop emBits (pssClearTop emBits s) = pssClearTop emBits s := by
  cases s with
  | nil => rfl
  | cons b bs => simp [pssClearTop, BitVec.and_assoc]

/-- Bits cleared before the mask goes on are cleared again after it. -/
theorem pssClearTop_xorOctets_pssClearTop (emBits : Nat) (s mask : OctetString) :
    pssClearTop emBits (xorOctets (pssClearTop emBits s) mask) = pssClearTop emBits (xorOctets s mask) := by
  cases s with
  | nil => rfl
  | cons b bs =>
    cases mask with
    | nil => rfl
    | cons c cs => simp [pssClearTop, xorOctets, and_xor_and]

/-! ### The masking of the data block (R280, R282) -/

/-- DB (R280): zeros, 0x01 and the salt. -/
def pssDB (a : HashAlg) (emBits sLen : Nat) (salt : OctetString) : OctetString :=
  zeros (pssEmLen emBits - sLen - hLen a - 2) ++ [0x01] ++ salt

/-- The masking of R280, DB to maskedDB, and the unmasking of R282, maskedDB to DB: one operation under the mask that H gives. -/
def pssMasked (a : HashAlg) (emBits : Nat) (H s : OctetString) : OctetString :=
  pssClearTop emBits (xorOctets s (mgf1 a H (pssEmLen emBits - hLen a - 1)))

/-- The three parts of what R280 builds. -/
theorem pssEncodeWith_eq (a : HashAlg) (m : OctetString) (emBits : Nat) {sLen : Nat} {salt : OctetString} (hs : salt.length = sLen) :
    pssEncodeWith a m emBits salt =
      pssMasked a emBits (pssHash a (hashOf a m) salt) (pssDB a emBits sLen salt) ++ pssHash a (hashOf a m) salt ++ [0xBC] := by
  subst hs
  rfl

@[simp] theorem pssDB_length (a : HashAlg) (emBits sLen : Nat) (salt : OctetString) :
    (pssDB a emBits sLen salt).length = pssEmLen emBits - sLen - hLen a - 2 + 1 + salt.length := by
  simp [pssDB, Nat.add_assoc, Nat.add_comm 1]

@[simp] theorem pssMasked_length (a : HashAlg) (emBits : Nat) (H s : OctetString) :
    (pssMasked a emBits H s).length = min s.length (pssEmLen emBits - hLen a - 1) := by
  simp [pssMasked]

/-- DB fills the octets before H, when the length check of R280 holds. -/
theorem pssDB_length_of_fits {a : HashAlg} {emBits sLen : Nat} {salt : OctetString} (hfits : hLen a + sLen + 2 ≤ pssEmLen emBits)
    (hs : salt.length = sLen) : (pssDB a emBits sLen salt).length = pssEmLen emBits - hLen a - 1 := by
  rw [pssDB_length]
  omega

/-- The first octet of DB is 0x00 or 0x01 (R288), so no bit of DB is cleared. -/
theorem pssClearTop_pssDB (a : HashAlg) (emBits sLen : Nat) (salt : OctetString) :
    pssClearTop emBits (pssDB a emBits sLen salt) = pssDB a emBits sLen salt := by
  unfold pssDB
  cases pssEmLen emBits - sLen - hLen a - 2 with
  | zero => exact congrArg (· :: salt) (one_and_pssTopMask emBits)
  | succ p => exact congrArg (· :: (zeros p ++ [0x01] ++ salt)) (BitVec.zero_and)

/-- Masking twice gives the string back, when its leftmost bits are clear. -/
theorem pssMasked_pssMasked {a : HashAlg} {emBits : Nat} {H s : OctetString} (hs : s.length = pssEmLen emBits - hLen a - 1)
    (hclear : pssClearTop emBits s = s) :
    pssMasked a emBits H (pssMasked a emBits H s) = s := by
  rw [pssMasked, pssMasked, pssClearTop_xorOctets_pssClearTop, xorOctets_cancel _ _ (by rw [mgf1_length, hs]), hclear]

/-! ### PSS verification (R282, R283) -/

/-- A string is zeros, 0x01 and a salt exactly when the checks of R282 on it hold. -/
theorem zeros_one_iff {db salt : OctetString} {p : Nat} (hp : p < db.length) :
    db = zeros p ++ [0x01] ++ salt ↔ (db.take p).any (· != 0) = false ∧ db.getD p 0 = 1 ∧ salt = db.drop (p + 1) := by
  have hzeros : db.take p = zeros p ↔ (db.take p).any (· != 0) = false := by
    rw [zeros, List.eq_replicate_iff]
    simp [hp.le]
  rw [List.append_assoc, eq_append_iff_take_drop (zeros_length p), hzeros, List.drop_eq_getElem_cons hp, List.singleton_append,
    List.cons.injEq, List.getD_eq_getElem _ _ hp, eq_comm (a := salt)]

theorem getD_concat {α : Type} {xs : List α} {n : Nat} (h : xs.length = n) (x d : α) : (xs ++ [x]).getD n d = x := by
  rw [List.getD_append_right _ _ _ _ h.le, h, Nat.sub_self]
  rfl

/-- A string of emLen octets that ends in BC is cut into maskedDB, H and BC. -/
theorem exists_pssParts {a : HashAlg} {em : OctetString} {emLen : Nat} (hlen : em.length = emLen) (hmin : hLen a + 1 ≤ emLen)
    (hlast : em.getD (emLen - 1) 0 = 0xBC) :
    ∃ maskedDB H : OctetString, maskedDB.length = emLen - hLen a - 1 ∧ H.length = hLen a ∧ em = maskedDB ++ H ++ [0xBC] := by
  rcases List.eq_nil_or_concat' em with rfl | ⟨xs, x, rfl⟩
  · exact absurd hlen (by rw [List.length_nil]; omega)
  · have hxs : xs.length = emLen - 1 := by
      rw [← hlen, List.length_append, List.length_singleton, Nat.add_sub_cancel]
    rw [getD_concat hxs] at hlast
    refine ⟨xs.take (emLen - hLen a - 1), xs.drop (emLen - hLen a - 1), ?_, ?_, ?_⟩
    · rw [List.length_take]; omega
    · rw [List.length_drop]; omega
    · rw [List.take_append_drop, hlast]

section
variable {a : HashAlg} {m em : OctetString} {emBits sLen : Nat}

/-- The checks of R282, over the data block it recovers. -/
theorem pssVerify_eq_true_iff {maskedDB H db : OctetString}
    (hleft : slice em 0 (pssEmLen emBits - hLen a - 1) = maskedDB)
    (hmiddle : slice em (pssEmLen emBits - hLen a - 1) (pssEmLen emBits - 1) = H)
    (hdb : pssMasked a emBits H maskedDB = db) :
    pssVerify a m em emBits sLen = true ↔
      em.length = pssEmLen emBits ∧ hLen a + sLen + 2 ≤ pssEmLen emBits ∧ em.getD (pssEmLen emBits - 1) 0 = 0xBC ∧
      pssClearTop emBits maskedDB = maskedDB ∧
      (slice db 0 (pssEmLen emBits - sLen - hLen a - 2)).any (· != 0) = false ∧
      db.getD (pssEmLen emBits - sLen - hLen a - 2) 0 = 1 ∧
      H = pssHash a (hashOf a m) (slice db (pssEmLen emBits - hLen a - 1 - sLen) (pssEmLen emBits - hLen a - 1)) := by
  subst hleft hmiddle hdb
  rw [Nat.sub_right_comm _ sLen]
  simp only [← topBits_eq_zero_iff, pssMasked]
  simp [pssVerify, ctEquals_fst, and_assoc]

/-- The checks of R282 on a string given in its parts. -/
theorem pssVerify_append_iff {maskedDB H : OctetString} (hfits : hLen a + sLen + 2 ≤ pssEmLen emBits)
    (hdb : maskedDB.length = pssEmLen emBits - hLen a - 1) (hH : H.length = hLen a) :
    pssVerify a m (maskedDB ++ H ++ [0xBC]) emBits sLen = true ↔
      pssClearTop emBits maskedDB = maskedDB ∧
        ∃ salt, pssMasked a emBits H maskedDB = pssDB a emBits sLen salt ∧ H = pssHash a (hashOf a m) salt := by
  have hbody : (maskedDB ++ H).length = pssEmLen emBits - 1 := by
    rw [List.length_append, hdb, hH]; omega
  have hem : (maskedDB ++ H ++ [(0xBC : Byte)]).length = pssEmLen emBits := by
    rw [List.length_append, hbody, List.length_singleton]; omega
  have hleft : slice (maskedDB ++ H ++ [(0xBC : Byte)]) 0 (pssEmLen emBits - hLen a - 1) = maskedDB := by
    rw [slice_zero, List.append_assoc, List.take_left' hdb]
  have hmiddle : slice (maskedDB ++ H ++ [(0xBC : Byte)]) (pssEmLen emBits - hLen a - 1) (pssEmLen emBits - 1) = H :=
    slice_middle hdb (by omega)
  have hunmasked : (pssMasked a emBits H maskedDB).length = pssEmLen emBits - hLen a - 1 := by
    rw [pssMasked_length, hdb, min_self]
  rw [pssVerify_eq_true_iff hleft hmiddle rfl]
  generalize pssMasked a emBits H maskedDB = db at hunmasked ⊢
  have hsalt : slice db (pssEmLen emBits - hLen a - 1 - sLen) (pssEmLen emBits - hLen a - 1) =
      db.drop (pssEmLen emBits - sLen - hLen a - 2 + 1) := by
    rw [slice_eq_drop _ hunmasked.le]
    congr 1
    omega
  have hsplit (salt : OctetString) := zeros_one_iff (db := db) (salt := salt) (p := pssEmLen emBits - sLen - hLen a - 2) (by omega)
  simp only [hem, hfits, getD_concat hbody, hsalt, slice_zero, pssDB, hsplit, true_and, and_assoc, exists_and_left, exists_eq_left]

/-- Masking and unmasking are one operation, so the checks accept exactly what R280 builds. -/
theorem pssVerify_iff_exists_salt : pssVerify a m em emBits sLen = true ↔ hLen a + sLen + 2 ≤ pssEmLen emBits ∧
    ∃ salt : OctetString, salt.length = sLen ∧ em = pssEncodeWith a m emBits salt := by
  constructor
  · intro h
    obtain ⟨hlen, hfits, hlast, -⟩ := (pssVerify_eq_true_iff rfl rfl rfl).1 h
    obtain ⟨maskedDB, H, hdb, hH, rfl⟩ := exists_pssParts (a := a) hlen (by omega) hlast
    obtain ⟨hclear, salt, hunmasked, rfl⟩ := (pssVerify_append_iff hfits hdb hH).1 h
    have hs : salt.length = sLen := by
      have := congrArg List.length hunmasked
      rw [pssMasked_length, pssDB_length] at this
      omega
    refine ⟨hfits, salt, hs, ?_⟩
    rw [pssEncodeWith_eq a m emBits hs, ← hunmasked, pssMasked_pssMasked hdb hclear]
  · rintro ⟨hfits, salt, hs, rfl⟩
    have hdb := pssDB_length_of_fits hfits hs
    rw [pssEncodeWith_eq a m emBits hs,
      pssVerify_append_iff hfits (by rw [pssMasked_length, hdb, min_self]) (pssHash_length ..)]
    exact ⟨pssClearTop_pssClearTop emBits _, salt, pssMasked_pssMasked hdb (pssClearTop_pssDB ..), rfl⟩

end

/-- A body that answers RESULT alone completes with it. -/
theorem finish_doneResult (s : State) (res : Bool) : finish s (doneResult res) = .next (answered s res) := rfl

theorem exec_pssVer_of_some (a : HashAlg) {rs1 rs2 : RegIdx} {s : State} {m em : OctetString}
    (hm : s.os rs1 = some m) (hem : s.os rs2 = some em) :
    exec (.pssVer (some a) rs1 rs2) s = .next (answered s (pssVerify a m em s.lparam0.toNat s.lparam1.toNat)) := by
  simp only [exec, execPssVer, needAlg_some, ok_bind, readOS_of_some hm, readOS_of_some hem, State.p0, State.p1, finish_doneResult]

/-- Settles O44: the outcome is the verifier's, and the verifier accepts what R280 builds under some salt. -/
theorem pssVerifierAcceptsExactly : Obligations.PssVerifierAcceptsExactly := by
  intro a rs1 rs2 s m em hm hem
  exact ⟨_, exec_pssVer_of_some a hm hem, pssVerify_iff_exists_salt⟩

/-! ### PKCS#1-v1.5 verification (R287) -/

theorem emsa15Verify_eq_decide (s : State) (a : HashAlg) (m em : OctetString) :
    emsa15Verify s a m em = decide (s.lparam0.toNat ≤ s.cfg.osMaxLen ∧ tLen a + 11 ≤ s.lparam0.toNat ∧
      em = emsa15EncodeRaw a m s.lparam0.toNat) := by
  rw [Bool.eq_iff_iff, decide_eq_true_iff, emsa15Verify, emsa15Fits, State.p0, ctEquals_fst]
  simp [and_assoc, eq_comm (a := em)]

/-- Settles O46: the length checks and the compare unit decide together. -/
theorem emsa15VerifierAcceptsExactly : Obligations.Emsa15VerifierAcceptsExactly := by
  intro a rs1 rs2 s m em hm hem
  simp only [exec, execEmsa15Ver, needAlg_some, ok_bind, readOS_of_some hm, readOS_of_some hem, emsa15Verify_eq_decide,
    finish_doneResult]

/-! ### The round trip (R288) -/

/-- Settles O47: what an encoder builds has the form its verifier accepts. -/
theorem signatureRoundTrip : Obligations.SignatureRoundTrip := by
  refine ⟨fun a m salt emBits hfits => ?_, fun a rs1 rs2 s m hm hcap hfits hem => ?_⟩
  · exact pssVerify_iff_exists_salt.2 ⟨hfits, salt, rfl, rfl⟩
  · rw [emsa15VerifierAcceptsExactly a rs1 rs2 s m _ hm hem, decide_eq_true ⟨hcap, hfits, rfl⟩]

/-! ### The encode commands (R281, R286) -/

/-- With ALG in 0..6 and valid sources the two length checks are left, then the request for the salt. -/
theorem exec_pssEnc_of_some (a : HashAlg) (rd : RegIdx) {rs1 rs3 : RegIdx} {s : State} {m : OctetString}
    {src : Option OctetString} (hm : s.os rs1 = some m) (hsrc : readSource s rs3 = .ok src) :
    exec (.pssEnc (some a) rd rs1 rs3) s =
      finish s (needCapacity s (pssEmLen s.lparam0.toNat) >>= fun _ =>
        need (decide (hLen a + s.lparam1.toNat + 2 ≤ pssEmLen s.lparam0.toNat)) .encoding >>= fun _ =>
        randOctets s src s.lparam1.toNat >>= fun salt =>
        doneOS rd (pssEncodeWith a m s.lparam0.toNat salt) (drawnFor src s.lparam1.toNat)) := by
  simp only [exec, execPssEnc, needAlg_some, ok_bind, readOS_of_some hm, hsrc, State.p0, State.p1, pssFits]
  rfl

/-- The encoded message with its first octet, the one whose leftmost bits are cleared, taken off (R280). -/
theorem pssEncodeWith_eq_cons (a : HashAlg) (m : OctetString) {emBits sLen : Nat} {salt : OctetString} (hs : salt.length = sLen)
    (hfits : hLen a + sLen + 2 ≤ pssEmLen emBits) :
    let H := pssHash a (hashOf a m) salt
    let masked := xorOctets (pssDB a emBits sLen salt) (mgf1 a H (pssEmLen emBits - hLen a - 1))
    pssEncodeWith a m emBits salt = (masked.getD 0 0 &&& pssTopMask emBits) :: masked.tail ++ H ++ [0xBC] := by
  intro H masked
  have hmasked : 0 < masked.length := by
    rw [xorOctets_length, mgf1_length, pssDB_length_of_fits hfits hs]
    omega
  rw [pssEncodeWith_eq a m emBits hs, pssMasked, pssClearTop_eq_cons emBits hmasked]

theorem pssEmLen_eq (emBits : Nat) : pssEmLen emBits = (emBits + 7) / 8 := rfl

/-- Settles O43: the checks pass or fail in the order of the body, and the salt is drawn or cut from RS3. -/
theorem pssEncoderWrites : Obligations.PssEncoderWrites := by
  intro a rd rs1 rs3 s m hm
  simp only [← pssEmLen_eq]
  refine ⟨fun hrng hcap hfits => ?_, fun src hrng hsrc hcap hfits => ?_, fun hsrc => ?_⟩
  · rw [exec_pssEnc_of_some a rd hm (readSource_internal hrng), encoderChecks_pass _ hcap hfits, randOctets, ok_bind,
      pssEncodeWith_eq_cons a m (draw_length _ _) hfits]
    exact finish_doneOS_drew s rd _ _
  · rw [exec_pssEnc_of_some a rd hm (readSource_host hrng hsrc), encoderChecks_pass _ hcap hfits]
    refine ⟨fun hlong => ?_, fun hshort => ?_⟩
    · rw [randOctets_of_le hlong, ok_bind, pssEncodeWith_eq_cons a m (List.length_take_of_le hlong) hfits]
      exact finish_doneOS s rd _
    · rw [randOctets_of_lt hshort, error_bind, finish_error]
  · obtain ⟨src, hsrc⟩ := exists_readSource hsrc
    rw [exec_pssEnc_of_some a rd hm hsrc]
    exact finish_encoderChecks_fails _

/-- With ALG in 0..6 and a valid message only the two length checks are left. -/
theorem exec_emsa15Enc_of_some (a : HashAlg) (rd : RegIdx) {rs1 : RegIdx} {s : State} {m : OctetString} (hm : s.os rs1 = some m) :
    exec (.emsa15Enc (some a) rd rs1) s =
      finish s (needCapacity s s.lparam0.toNat >>= fun _ => need (decide (tLen a + 11 ≤ s.lparam0.toNat)) .encoding >>= fun _ =>
        doneOS rd (emsa15EncodeRaw a m s.lparam0.toNat)) := by
  simp only [exec, execEmsa15Enc, needAlg_some, ok_bind, readOS_of_some hm, State.p0, emsa15Fits]
  rfl

/-- Settles O45: the checks pass or fail in the order of the body. -/
theorem emsa15EncoderWrites : Obligations.Emsa15EncoderWrites := by
  intro a rd rs1 s m hm emLen T
  have hT : T.length = tLen a := by
    rw [List.length_append, hashOf_length, tLen]
  rw [exec_emsa15Enc_of_some a rd hm, hT]
  refine ⟨fun hcap hfits => ?_, finish_encoderChecks_fails _⟩
  rw [encoderChecks_pass _ hcap hfits, finish_doneOS]
  rfl

end Sys2Proof.Machine
end

section
/-! The compare command (O48): RESULT and CTITER of CTEQ. -/

namespace Sys2Proof.Machine

/-- The compare unit decides equality, over as many positions as the longer string has (R300, R302). -/
theorem ctEquals_eq (a b : OctetString) : ctEquals a b = (decide (a = b), max a.length b.length) :=
  Prod.ext (ctEquals_fst a b) rfl

/-- A body that answers RESULT and a count completes with both (R133). -/
theorem finish_doneResult_some (s : State) (res : Bool) (n : Nat) :
    finish s (doneResult res (some n)) = .next { answered s res with ctiter := BitVec.ofNat 32 n } := rfl

/-- Settles O48: with valid operands the command completes with what the compare unit returns. -/
theorem compareDecidesEquality : Obligations.CompareDecidesEquality := by
  intro rs1 rs2 s a b ha hb
  simp only [exec, execCteq, readOS_of_some ha, readOS_of_some hb, ok_bind, ctEquals_eq, finish_doneResult_some]

end Sys2Proof.Machine
end

section
/-! The errors of a command (spec/40_common.md R134, spec/60_exceptions.md R400 to R408; O15, O16, O17): the algorithm, then the
operands, then the body's own checks. -/

namespace Sys2Proof.Machine

/-! ### The algorithm (R134 step 2) -/

/-- ALG = 7 ends the run before anything is read. -/
theorem exec_of_noAlg {i : Instr} (h : algOf i = some none) (s : State) : exec i s = .next (errored s .unsupportedAlg) := by
  cases i with
  | hash alg | mgf1 alg | oaepEnc alg | oaepDec alg | pssEnc alg | pssVer alg | emsa15Enc alg | emsa15Ver alg =>
    obtain rfl : alg = none := Option.some.inj h
    rfl
  | i2osp | os2ip | rsaep | rsavp1 | rsadp | rsasp1 | rsadpCrt | rsasp1Crt | eme15Enc | eme15Dec | cteq => contradiction

/-- Settles O16: selecting the algorithm is the first thing a command that uses ALG does. -/
theorem unsupportedAlgComesBeforeOperands : Obligations.UnsupportedAlgComesBeforeOperands :=
  ⟨rfl, fun _ s h => exec_of_noAlg h s⟩

/-! ### What a computation may raise -/

/-- `x` fails with no other code than those of `E`. -/
def RaisesOnly {α : Type} (E : ErrCode → Prop) (x : Except ErrCode α) : Prop := ∀ c, x = .error c → E c

section
variable {α β : Type} {E : ErrCode → Prop} {s : State}

theorem raisesOnly_ok (v : α) : RaisesOnly E (.ok v) := nofun

theorem RaisesOnly.bind {x : Except ErrCode α} {f : α → Except ErrCode β} (hx : RaisesOnly E x)
    (hf : ∀ v, x = .ok v → RaisesOnly E (f v)) : RaisesOnly E (x >>= f) := fun c h => by
  obtain herr | ⟨v, hv, herr⟩ := bind_eq_error.1 h
  · exact hx c herr
  · exact hf v hv c herr

theorem raisesOnly_need {b : Bool} {c : ErrCode} (h : E c) : RaisesOnly E (need b c) := fun d hd => by
  obtain ⟨-, rfl⟩ := need_eq_error.1 hd
  exact h

theorem raisesOnly_needCapacity {n : Nat} (h : E .capacity) : RaisesOnly E (needCapacity s n) := fun d hd => by
  obtain ⟨-, rfl⟩ := needCapacity_eq_error.1 hd
  exact h

theorem raisesOnly_i2osp {x n : Nat} (h : E .encoding) : RaisesOnly E (i2osp x n) := fun d hd => by
  obtain ⟨-, rfl⟩ := i2osp_eq_error.1 hd
  exact h

theorem raisesOnly_oaepDecode {a : HashAlg} {em label : OctetString} {k : Nat} (h : E .decryption) :
    RaisesOnly E (oaepDecode a em label k) := fun _ hd => oaepDecode_error hd ▸ h

theorem raisesOnly_eme15Decode {em : OctetString} {k : Nat} (h : E .decryption) : RaisesOnly E (eme15Decode em k) :=
  fun _ hd => eme15Decode_error hd ▸ h

theorem raisesOnly_randOctets {src : Option OctetString} {n : Nat} (h : src.isSome → E .randomSource) :
    RaisesOnly E (randOctets s src n) := fun d hd => by
  obtain ⟨rfl, v, rfl, -⟩ := randOctets_error hd
  exact h rfl

theorem raisesOnly_randNonzeroOctets {src : Option OctetString} {n : Nat} (h : src.isSome → E .randomSource) :
    RaisesOnly E (randNonzeroOctets s src n) := fun d hd => by
  cases src with
  | none => contradiction
  | some v =>
    obtain rfl := randNonzeroOctets_error hd
    exact h rfl

theorem raisesOnly_doneN {rd : RegIdx} {v : Nat} (h : 256 ^ s.cfg.osMaxLen ≤ v → E .capacity) : RaisesOnly E (doneN s rd v) :=
  fun d hd => by
    obtain ⟨hv, rfl⟩ := doneN_eq_error.1 hd
    exact h hv

/-- The checks of an encoder, before what it builds (R407, R414). -/
theorem raisesOnly_encoderChecks {k : Nat} {fits : Bool} {run : Except ErrCode α} (hcap : E .capacity) (henc : E .encoding)
    (hrun : RaisesOnly E run) : RaisesOnly E (needCapacity s k >>= fun _ => need fits .encoding >>= fun _ => run) :=
  (raisesOnly_needCapacity hcap).bind fun _ _ => (raisesOnly_need henc).bind fun _ _ => hrun

end

/-! ### The operands (R134 step 3) -/

/-- `x` fails with INVALID_OPERAND unless `valid` holds, and with `valid` only with a code of `E`. -/
def Checked {α : Type} (valid : Prop) (E : ErrCode → Prop) (x : Except ErrCode α) : Prop :=
  (¬valid → x = .error .invalidOperand) ∧ (valid → RaisesOnly E x)

/-- `x` is a check of operands alone: when `valid` holds it passes. -/
abbrev ChecksOperands {α : Type} (valid : Prop) (x : Except ErrCode α) : Prop := Checked valid (fun _ => False) x

section
variable {α β : Type} {P Q : Prop} {E : ErrCode → Prop}

theorem checksOperands_of_iff {x : Except ErrCode α} (h : ∀ c, x = .error c ↔ ¬P ∧ c = .invalidOperand) : ChecksOperands P x :=
  ⟨fun hP => (h _).2 ⟨hP, rfl⟩, fun hP c hc => ((h c).1 hc).1 hP⟩

/-- What follows a check of operands runs only when the check passes. -/
theorem ChecksOperands.bind {x : Except ErrCode α} {f : α → Except ErrCode β} (hx : ChecksOperands P x)
    (hf : ∀ v, x = .ok v → Checked Q E (f v)) : Checked (P ∧ Q) E (x >>= f) := by
  by_cases hP : P
  · cases x with
    | ok v => simpa [hP] using hf v rfl
    | error c => exact (hx.2 hP c rfl).elim
  · rw [hx.1 hP]
    exact ⟨fun _ => rfl, fun h => absurd h.1 hP⟩

/-- Once the last operand is checked the body runs. -/
theorem ChecksOperands.bind_body {x : Except ErrCode α} {f : α → Except ErrCode β} (hx : ChecksOperands P x)
    (hf : ∀ v, x = .ok v → RaisesOnly E (f v)) : Checked P E (x >>= f) := by
  have h : Checked (P ∧ True) E (x >>= f) := hx.bind fun v hv => ⟨fun hn => absurd trivial hn, fun _ => hf v hv⟩
  rwa [and_true] at h

theorem checked_needAlg {alg : AlgSel} {f : HashAlg → Except ErrCode α} (halg : some alg ≠ some none)
    (hf : ∀ a, Checked P E (f a)) : Checked P E (needAlg alg >>= f) := by
  cases alg with
  | none => contradiction
  | some a => exact hf a

end

theorem checksOperands_readOS (s : State) (r : RegIdx) : ChecksOperands (s.os r).isSome (readOS s r) :=
  checksOperands_of_iff fun c => by simp [readOS_eq_error]

theorem checksOperands_readN (s : State) (r : RegIdx) : ChecksOperands (s.n r).isSome (readN s r) :=
  checksOperands_of_iff fun c => by simp [readN_eq_error]

theorem checksOperands_readSource (s : State) (r : RegIdx) :
    ChecksOperands (s.lrngsrc = true → (s.os r).isSome) (readSource s r) :=
  checksOperands_of_iff fun c => by simp [readSource_eq_error, and_assoc]

theorem checksOperands_blockFits (b : RegIdx) (t : Nat) :
    ChecksOperands (b.val + 5 + 3 * t ≤ 32) (need (blockFits b t) .invalidOperand) :=
  checksOperands_of_iff fun c => by simp [need_eq_error, blockFits]

theorem checksOperands_readBlock (s : State) (b : RegIdx) (t : Nat) :
    ChecksOperands (∀ r ∈ blockRegs b t, (s.n r).isSome) (readBlock s b.val (5 + 3 * t)) :=
  checksOperands_of_iff fun c => by simp [readBlock_eq_error, blockRegs]

theorem checksOperands_readCrt (s : State) (rs1 b : RegIdx) (t : Nat) :
    ChecksOperands (b.val + 5 + 3 * t ≤ 32 ∧ (s.n rs1).isSome ∧ ∀ r ∈ blockRegs b t, (s.n r).isSome)
      (readCrt s rs1 b t) :=
  (checksOperands_blockFits b t).bind fun _ _ => (checksOperands_readN s rs1).bind fun _ _ =>
    (checksOperands_readBlock s b t).bind_body fun _ _ => raisesOnly_ok _

/-! ### The codes of a command's row (R400) -/

/-- The codes a command with valid operands may end with: those of its row in R400's table, RANDOM_SOURCE only from the host's
octets (R408). -/
def BodyError (i : Instr) (s : State) (c : ErrCode) : Prop :=
  c ≠ .invalidOperand ∧ (s.osFit → s.nFit → c ∈ mayRaise i) ∧ (c = .randomSource → s.lrngsrc = true)

theorem bodyError_of_row {i : Instr} {s : State} {c : ErrCode} (hrow : (mayRaise i).contains c = true := by rfl)
    (hc : c ≠ .invalidOperand ∧ c ≠ .randomSource := by decide) : BodyError i s c :=
  ⟨hc.1, fun _ _ => List.contains_iff_mem.1 hrow, fun h => absurd h hc.2⟩

theorem bodyError_randomSource {i : Instr} {s : State} {rs3 : RegIdx} {src : Option OctetString}
    (hsrc : readSource s rs3 = .ok src) (h : src.isSome) (hrow : (mayRaise i).contains .randomSource = true := by rfl) :
    BodyError i s .randomSource := by
  refine ⟨nofun, fun _ _ => List.contains_iff_mem.1 hrow, fun _ => ?_⟩
  obtain ⟨hrng, -⟩ | ⟨-, rfl⟩ := readSource_eq_ok.1 hsrc
  · exact hrng
  · contradiction

/-- A row without CAPACITY: the value would have to be too large, and with the registers in capacity it is not (R407). -/
theorem bodyError_capacity_of_lt {i : Instr} {s : State} {v : Nat} (hv : s.osFit → s.nFit → v < 256 ^ s.cfg.osMaxLen)
    (hlarge : 256 ^ s.cfg.osMaxLen ≤ v) : BodyError i s .capacity :=
  ⟨nofun, fun hos hn => absurd (hv hos hn) hlarge.not_gt, nofun⟩

/-! ### The operands and the body of every command -/

/-- The operands a run checks are those R104 lists for its command. -/
theorem Checked.of_operands {i : Instr} {s : State} {P : Prop} {r : RunResult} (h : Checked P (BodyError i s) r)
    (hP : P ↔ operandsValid i s := by
      cases hrng : s.lrngsrc <;> simp [operandsValid, blockBase, osSources, nSources, hrng]) :
    Checked (operandsValid i s) (BodyError i s) r := by
  obtain rfl : P = operandsValid i s := propext hP
  exact h

section
variable (s : State) (rd rs1 rs2 rs3 : RegIdx)

theorem expPrimitive_checked {E : ErrCode → Prop} (hrange : E .range)
    (hcap : ∀ v, (s.nFit → v < 256 ^ s.cfg.osMaxLen) → 256 ^ s.cfg.osMaxLen ≤ v → E .capacity) :
    Checked ((s.n rs1).isSome ∧ (s.n rs2).isSome ∧ (s.n rs3).isSome) E (expPrimitive s rd rs1 rs2 rs3) :=
  (checksOperands_readN s rs1).bind fun x _ => (checksOperands_readN s rs2).bind fun _ hn =>
    (checksOperands_readN s rs3).bind_body fun e _ =>
      (raisesOnly_need hrange).bind fun _ hlt => raisesOnly_doneN <| hcap _ fun hfit =>
        (modExp_lt x e (Nat.zero_lt_of_lt (of_decide_eq_true (need_eq_ok.1 hlt)))).trans (nFit_lt hfit (readN_eq_ok.1 hn))

theorem crtPrimitive_checked {E : ErrCode → Prop} (hrange : E .range) (hcap : E .capacity) :
    Checked (rs2.val + 5 + 3 * s.p0 ≤ 32 ∧ (s.n rs1).isSome ∧ ∀ r ∈ blockRegs rs2 s.p0, (s.n r).isSome) E
      (crtPrimitive s rd rs1 rs2) :=
  (checksOperands_readCrt s rs1 rs2 s.p0).bind_body fun _ _ =>
    (raisesOnly_need hrange).bind fun _ _ => raisesOnly_doneN fun _ => hcap

end

/-- With its algorithm selected, every command checks exactly its operands, and its body raises only the codes of its row. -/
theorem exec_checked (i : Instr) (s : State) (halg : algOf i ≠ some none) :
    ∃ r, exec i s = finish s r ∧ Checked (operandsValid i s) (BodyError i s) r := by
  cases i with
  | hash alg rd rs1 =>
    exact ⟨_, rfl, .of_operands <| checked_needAlg halg fun _ => (checksOperands_readOS s rs1).bind_body fun _ _ =>
      raisesOnly_ok _⟩
  | mgf1 alg rd rs1 =>
    exact ⟨_, rfl, .of_operands <| checked_needAlg halg fun _ => (checksOperands_readOS s rs1).bind_body fun _ _ =>
      (raisesOnly_needCapacity bodyError_of_row).bind fun _ _ => raisesOnly_ok _⟩
  | i2osp rd rs1 =>
    exact ⟨_, rfl, .of_operands <| (checksOperands_readN s rs1).bind_body fun _ _ =>
      (raisesOnly_needCapacity bodyError_of_row).bind fun _ _ =>
        (raisesOnly_i2osp bodyError_of_row).bind fun _ _ => raisesOnly_ok _⟩
  | os2ip rd rs1 =>
    exact ⟨_, rfl, .of_operands <| (checksOperands_readOS s rs1).bind_body fun X hX =>
      raisesOnly_doneN <| bodyError_capacity_of_lt fun hos _ =>
        (os2ip_lt X).trans_le (Nat.pow_le_pow_right (by decide) (osFit_length hos (readOS_eq_ok.1 hX)))⟩
  | rsaep rd rs1 rs2 rs3 | rsavp1 rd rs1 rs2 rs3 | rsadp rd rs1 rs2 rs3 | rsasp1 rd rs1 rs2 rs3 =>
    exact ⟨_, rfl, .of_operands <| expPrimitive_checked s rd rs1 rs2 rs3 bodyError_of_row fun _ hv =>
      bodyError_capacity_of_lt fun _ => hv⟩
  | rsadpCrt rd rs1 rs2 | rsasp1Crt rd rs1 rs2 =>
    exact ⟨_, rfl, .of_operands <| crtPrimitive_checked s rd rs1 rs2 bodyError_of_row bodyError_of_row⟩
  | oaepEnc alg rd rs1 rs2 rs3 =>
    exact ⟨_, rfl, .of_operands <| checked_needAlg halg fun _ => (checksOperands_readOS s rs1).bind fun _ _ =>
      (checksOperands_readOS s rs2).bind fun _ _ => (checksOperands_readSource s rs3).bind_body fun src hsrc =>
      raisesOnly_encoderChecks bodyError_of_row bodyError_of_row <|
        (raisesOnly_randOctets (bodyError_randomSource hsrc)).bind fun _ _ => raisesOnly_ok _⟩
  | oaepDec alg rd rs1 rs2 =>
    exact ⟨_, rfl, .of_operands <| checked_needAlg halg fun _ => (checksOperands_readOS s rs1).bind fun _ _ =>
      (checksOperands_readOS s rs2).bind_body fun _ _ =>
      (raisesOnly_oaepDecode bodyError_of_row).bind fun _ _ => raisesOnly_ok _⟩
  | eme15Enc rd rs1 rs3 =>
    exact ⟨_, rfl, .of_operands <| (checksOperands_readOS s rs1).bind fun _ _ =>
      (checksOperands_readSource s rs3).bind_body fun src hsrc =>
      raisesOnly_encoderChecks bodyError_of_row bodyError_of_row <|
        (raisesOnly_randNonzeroOctets (bodyError_randomSource hsrc)).bind fun _ _ => raisesOnly_ok _⟩
  | eme15Dec rd rs1 =>
    exact ⟨_, rfl, .of_operands <| (checksOperands_readOS s rs1).bind_body fun _ _ =>
      (raisesOnly_eme15Decode bodyError_of_row).bind fun _ _ => raisesOnly_ok _⟩
  | pssEnc alg rd rs1 rs3 =>
    exact ⟨_, rfl, .of_operands <| checked_needAlg halg fun _ => (checksOperands_readOS s rs1).bind fun _ _ =>
      (checksOperands_readSource s rs3).bind_body fun src hsrc =>
      raisesOnly_encoderChecks bodyError_of_row bodyError_of_row <|
        (raisesOnly_randOctets (bodyError_randomSource hsrc)).bind fun _ _ => raisesOnly_ok _⟩
  | pssVer alg rs1 rs2 | emsa15Ver alg rs1 rs2 =>
    exact ⟨_, rfl, .of_operands <| checked_needAlg halg fun _ => (checksOperands_readOS s rs1).bind fun _ _ =>
      (checksOperands_readOS s rs2).bind_body fun _ _ => raisesOnly_ok _⟩
  | emsa15Enc alg rd rs1 =>
    exact ⟨_, rfl, .of_operands <| checked_needAlg halg fun _ => (checksOperands_readOS s rs1).bind_body fun _ _ =>
      raisesOnly_encoderChecks bodyError_of_row bodyError_of_row (raisesOnly_ok _)⟩
  | cteq rs1 rs2 =>
    exact ⟨_, rfl, .of_operands <| (checksOperands_readOS s rs1).bind fun _ _ =>
      (checksOperands_readOS s rs2).bind_body fun _ _ => raisesOnly_ok _⟩

/-! ### The code a command ends with (R400, R406) -/

/-- A completion shows the error of its run, when no code stood in ERRCODE before. -/
theorem error_of_complete_errcode {s : State} {r : RunResult} {c : ErrCode} (hs : s.errcode = none)
    (h : (s.complete r).errcode = some c) : r = .error c := by
  cases r with
  | ok d => simp [hs] at h
  | error e => exact congrArg _ (Option.some.inj h)

theorem exec_of_not_operandsValid {i : Instr} {s : State} (halg : algOf i ≠ some none) (h : ¬operandsValid i s) :
    exec i s = .next (errored s .invalidOperand) := by
  obtain ⟨r, hr, hinvalid, -⟩ := exec_checked i s halg
  rw [hr, hinvalid h, finish_error]

theorem bodyError_of_exec {i : Instr} {s t : State} {c : ErrCode} (halg : algOf i ≠ some none) (h : operandsValid i s)
    (hs : s.errcode = none) (ht : exec i s = .next t) (hc : t.errcode = some c) : BodyError i s c := by
  obtain ⟨r, hr, -, hbody⟩ := exec_checked i s halg
  rw [hr, finish_eq, Host.Outcome.next.injEq] at ht
  subst ht
  exact hbody h c (error_of_complete_errcode hs hc)

/-- Settles O17: the operands are checked before the body, and the body never raises INVALID_OPERAND. -/
theorem invalidOperandExactly : Obligations.InvalidOperandExactly := by
  refine ⟨rfl, fun i s halg => ⟨exec_of_not_operandsValid halg, fun hvalid t hs ht hc => ?_⟩⟩
  obtain ⟨hne, -⟩ := bodyError_of_exec halg hvalid hs ht hc
  exact hne rfl

theorem unsupportedAlg_mem_mayRaise {i : Instr} (h : algOf i = some none) : .unsupportedAlg ∈ mayRaise i := by
  cases i with
  | hash | mgf1 | oaepEnc | oaepDec | pssEnc | pssVer | emsa15Enc | emsa15Ver => exact .head _
  | i2osp | os2ip | rsaep | rsavp1 | rsadp | rsasp1 | rsadpCrt | rsasp1Crt | eme15Enc | eme15Dec | cteq => contradiction

theorem invalidOperand_mem_mayRaise (i : Instr) : .invalidOperand ∈ mayRaise i := by
  cases i with
  | hash | mgf1 | oaepEnc | oaepDec | pssEnc | pssVer | emsa15Enc | emsa15Ver => exact .tail _ (.head _)
  | i2osp | os2ip | rsaep | rsavp1 | rsadp | rsasp1 | rsadpCrt | rsasp1Crt | eme15Enc | eme15Dec | cteq => exact .head _

/-- Settles O15: a command ends with the error of the first of its three stages that fails, the algorithm, the operands, the body. -/
theorem errorsByOpcode : Obligations.ErrorsByOpcode := by
  refine ⟨⟨rfl, rfl, rfl, rfl, rfl, rfl, rfl, rfl, rfl⟩, fun i s t c hos hn hs ht hc => ?_⟩
  by_cases halg : algOf i = some none
  · obtain rfl := Host.Outcome.next.inj ((exec_of_noAlg halg s).symm.trans ht)
    obtain rfl := Option.some.inj hc
    exact ⟨unsupportedAlg_mem_mayRaise halg, nofun⟩
  · by_cases hvalid : operandsValid i s
    · obtain ⟨-, hrow, hrandom⟩ := bodyError_of_exec halg hvalid hs ht hc
      exact ⟨hrow hos hn, hrandom⟩
    · obtain rfl := Host.Outcome.next.inj ((exec_of_not_operandsValid halg hvalid).symm.trans ht)
      obtain rfl := Option.some.inj hc
      exact ⟨invalidOperand_mem_mayRaise i, nofun⟩

end Sys2Proof.Machine
end

section
/-! Reset, and commands issued before their operands exist (spec/70_reset_and_hazards.md R440, R441; O12, O58, O59). -/

namespace Sys2Proof.Machine

/-! ### The reset state (R440) -/

/-- Settles O12: the reset state is what a reset makes of itself. -/
theorem resetSatisfiesInvariant : Obligations.ResetSatisfiesInvariant := fun c hc => hardReset_inv (s := State.resetWith c) hc

/-- After a reset every register but ID, CAPS and the buffer port reads 0. -/
theorem readReg_hardReset (s : State) {r : MmioReg} (h : r ≠ .id ∧ r ≠ .caps ∧ r ≠ .osdata) :
    s.hardReset.readReg r = (0, s.hardReset) := by
  obtain ⟨hid, hcaps, hosdata⟩ := h
  cases r with
  | id => contradiction
  | caps => contradiction
  | osdata => contradiction
  | oslen => exact congrArg (·, s.hardReset) (oslenWord_of_none (os_hardReset s _))
  | ctrl => exact congrArg (·, s.hardReset) (ctrl_toWord_eq _)
  | status => exact congrArg (·, s.hardReset) (status_toWord_eq _)
  | errcode | cmd | param0 | param1 | sel | osptr | ctiter | reserved => rfl

/-- Settles O58: the turn off the schedule, the state is the one `hardReset` gives. -/
theorem hardwareReset : Obligations.HardwareReset := by
  intro s rest hs
  refine ⟨(afterTurn s rest).hardReset, step_reset hs, os_hardReset _, n_hardReset _, rfl, rfl, rfl, rfl, rfl, rfl, rfl, rfl, rfl,
    rfl, rfl, rfl, rfl, rfl, rfl, rfl, rfl, rfl, rfl, rfl, fun r hr => readReg_hardReset _ ?_⟩
  revert r
  decide

/-! ### Commands before operands (R441) -/

/-- Every command reads at least one register (R104). -/
theorem exists_source (i : Instr) (src : Bool) (t : Nat) : (∃ r, r ∈ osSources src i) ∨ ∃ r, r ∈ nSources t i := by
  cases i with
  | hash _ _ r | mgf1 _ _ r | os2ip _ r | eme15Dec _ r | emsa15Enc _ _ r | oaepDec _ _ r | pssVer _ r | emsa15Ver _ r | cteq r =>
    exact .inl ⟨r, .head _⟩
  | oaepEnc _ _ r | eme15Enc _ r | pssEnc _ _ r => exact .inl ⟨r, by cases src <;> exact .head _⟩
  | i2osp _ r | rsaep _ r | rsavp1 _ r | rsadp _ r | rsasp1 _ r | rsadpCrt _ r | rsasp1Crt _ r => exact .inr ⟨r, .head _⟩

theorem not_operandsValid_of_none {s : State} (hos : ∀ r, s.os r = none) (hn : ∀ r, s.n r = none) (i : Instr) :
    ¬operandsValid i s := by
  rintro ⟨-, hosValid, hnValid⟩
  obtain ⟨r, hr⟩ | ⟨r, hr⟩ := exists_source i s.lrngsrc s.p0
  · simpa [hos r] using hosValid r hr
  · simpa [hn r] using hnValid r hr

/-- Settles O59: an illegal word fails as such, and a command's algorithm and then its operands are checked. -/
theorem commandBeforeOperands : Obligations.CommandBeforeOperands := by
  refine ⟨fun c => ⟨rfl, os_resetWith c, n_resetWith c⟩, fun s w hos hn => ?_⟩
  have hw : BitVec.ofNat 32 (w.toNat % 2 ^ 32) = w := by simp [Nat.mod_eq_of_lt w.isLt]
  rw [step_withFetchWord, hw]
  cases hi : decode w with
  | none => exact engineStep_of_decode_none (s := s.acceptCommand w) hi
  | some i =>
    rw [engineStep_of_decode (s := s.acceptCommand w) hi]
    by_cases halg : algOf i = some none
    · simpa [halg] using exec_of_noAlg halg (s.acceptCommand w)
    · simpa [halg] using exec_of_not_operandsValid halg (not_operandsValid_of_none (s := s.acceptCommand w) hos hn i)

end Sys2Proof.Machine
end
